-- ==== Sys2Proof/Word.lean ====
section
/-! DEFINITION. The word types of STEGCORE: one abbreviation per element width the spec names. -/

namespace Sys2Proof

/-- One register, one command word, one element of `POS` or `HIST`: 32 bits (10_state.md R22, 20_memory.md R60). -/
abbrev Word := BitVec 32

/-- One sample, payload character or key byte: 8 bits (10_state.md R35, R36, R37). -/
abbrev Byte := BitVec 8

/-- One answer of the randomness source: `RND_BITS` = 16 bits (00_scope.md R7, 44_analysis.md R194). -/
abbrev DrawWord := BitVec 16

end Sys2Proof
end

