-- ==== Sys2Proof/Config.lean ====
section
/-! DEFINITION. What is fixed for the machine: the constants of 00_scope.md R7, and the free values the spec
leaves open, each an opaque constant with no body. -/

namespace Sys2Proof.Config

/-! ### Constants (00_scope.md R7) -/

/-- `LCG_SEED`, 41_posgen.md R120. -/
def lcgSeed : Nat := 12345

/-- `LCG_A`, the multiplier, 41_posgen.md R120. -/
def lcgA : Nat := 9301

/-- `LCG_C`, the increment, 41_posgen.md R120. -/
def lcgC : Nat := 49297

/-- `LCG_M`, the modulus and the bound on the generator's steps, 41_posgen.md R120 and R126. -/
def lcgM : Nat := 233280

/-- `PREFIX_BITS`: the length prefix, 40_framer.md R100. -/
def prefixBits : Nat := 32

/-- `PAY_MAX`: the largest valid length and the number of elements of `PAY`. -/
def payMax : Nat := 10000

/-- `KEY_MAX`: the number of elements of `KEY`. -/
def keyMax : Nat := 256

/-- `POS_MAX`: the number of elements of `POS`. -/
def posMax : Nat := 80032

/-- The number of elements of `HIST`, one per sample value (10_state.md R39). -/
def histSize : Nat := 256

/-- The number of register slots (10_state.md R22). -/
def regSlots : Nat := 64

/-- `DEC_POS_COUNT`: the positions regenerated on the decode side, 41_posgen.md R127. -/
def decPosCount : Nat := 1000

/-- `CAP_RESERVE`: the characters subtracted in the capacity formula, 43_cipher_capacity.md R185. -/
def capReserve : Nat := 32

/-- The constant of the register `ID` (10_state.md R24). -/
def idWord : Word := 0x53544731#32

/-! ### Open values: no body, so no proof can see what they are -/

/-- The open parameter `PIX_BYTES` (00_scope.md R7) of the machine `State.reset` describes, as
`PIX_BYTES = 4 * (pixSize + 1)`: a multiple of 4 from 4 to 2^32 (log entry 1). -/
opaque pixSize : Fin 1073741824

/-- The `k`-th value of the randomness source beyond any script: any 16-bit value, no law between two of them
(44_analysis.md R194; log entry 3). -/
opaque draw : Nat → DrawWord

/-- The `k`-th unspecified value that a host read returns while `BUSY` = 1 (20_memory.md R61; log entry 10). -/
opaque busyRead : Nat → Word

end Sys2Proof.Config
end

