-- ==== Sys2Proof/Syntax.lean ====
section
/-! DEFINITION. The command set: one constructor of `Instr` per row of the opcode table (30_encoding.md R84), and
the fields of the one command format `C` (R80). -/

namespace Sys2Proof

/-- The fifteen commands of 30_encoding.md R84. No command word carries an operand (R80): every operand is a
named register or memory, so no constructor has an argument. -/
inductive Instr where
  /-- `NOP`, 45_noise_system.md R211. -/
  | nop
  /-- `CAP`, 43_cipher_capacity.md R185. -/
  | cap
  /-- `ENC.lsb`, 42_codecs.md R151. -/
  | encLsb
  /-- `ENC.lsb2`, 42_codecs.md R152. -/
  | encLsb2
  /-- `ENC.random`, 42_codecs.md R153. -/
  | encRandom
  /-- `DEC.lsb`, 42_codecs.md R155. -/
  | decLsb
  /-- `DEC.lsb2`, 42_codecs.md R156. -/
  | decLsb2
  /-- `DEC.random`, 42_codecs.md R157. -/
  | decRandom
  /-- `DEC.auto`, 42_codecs.md R159. -/
  | decAuto
  /-- `ANALYZE`, 44_analysis.md R197. -/
  | analyze
  /-- `GENPOS`, 41_posgen.md R131. -/
  | genpos
  /-- `XMASK`, 43_cipher_capacity.md R182. -/
  | xmask
  /-- `NOISE`, 45_noise_system.md R210. -/
  | noise
  /-- `PLAUS`, 42_codecs.md R160. -/
  | plaus
  /-- `SRST`, 45_noise_system.md R212. -/
  | srst
  deriving DecidableEq, Repr

/-- The three channel codecs (00_scope.md R12 "scheme"); `auto` is the policy of `DEC.auto`, not a codec, and
never appears in `STATUS.SCHEME_USED` (30_encoding.md R82). -/
inductive Codec where
  /-- Sequential 1-bit. -/
  | lsb
  /-- Sequential 2-bit. -/
  | lsb2
  /-- Randomized 1-bit. -/
  | random
  deriving DecidableEq, Repr

/-- The fields of format `C` (30_encoding.md R80): `RSV` 31:6, `SCHEME` 5:4, `OP` 3:0. -/
structure CmdFields where
  rsv : BitVec 26
  scheme : BitVec 2
  op : BitVec 4
  deriving DecidableEq, Repr

/-- Why a command word is not one of the fifteen. -/
inductive Reject where
  /-- 30_encoding.md R85. -/
  | illegalCommand
  /-- 30_encoding.md R86: the word 0x00000032. -/
  | autoOnEncode
  deriving DecidableEq, Repr

end Sys2Proof
end

