-- ==== Sys2Proof/WellFormed.lean ====
section
/-! DEFINITION. Which fields of format `C` make a legal command word (30_encoding.md R80, R83, R85, R86). An
`Instr` itself has no operand, so every term of it is well formed. -/

namespace Sys2Proof

/-- `RSV` must be 0 (30_encoding.md R80). -/
def CmdFields.rsvZero (f : CmdFields) : Bool := f.rsv == 0

/-- Operation codes 9 to 14 are reserved (30_encoding.md R83). -/
def CmdFields.opAssigned (f : CmdFields) : Bool := !(9 ≤ f.op.toNat && f.op.toNat ≤ 14)

/-- Only `ENC` (2) and `DEC` (3) take a scheme (30_encoding.md R83). -/
def CmdFields.takesScheme (f : CmdFields) : Bool := f.op == 2 || f.op == 3

/-- `SCHEME` is 0 on an operation that takes none (30_encoding.md R80, R85). -/
def CmdFields.schemeAllowed (f : CmdFields) : Bool := f.takesScheme || f.scheme == 0

/-- `ENC` with scheme 3 (`auto`) is illegal (30_encoding.md R86). -/
def CmdFields.notAutoEncode (f : CmdFields) : Bool := !(f.op == 2 && f.scheme == 3)

/-- All four checks: exactly the legal command words have such fields. -/
def CmdFields.wf (f : CmdFields) : Bool := f.rsvZero && f.opAssigned && f.schemeAllowed && f.notAutoEncode

/-- Every command is well formed: no constructor has an operand. -/
def Instr.wf : Instr → Bool
  | .nop | .cap | .encLsb | .encLsb2 | .encRandom | .decLsb | .decLsb2 | .decRandom | .decAuto
  | .analyze | .genpos | .xmask | .noise | .plaus | .srst => true

end Sys2Proof
end

