-- ==== Sys2Proof/Decode.lean ====
section
/-! DEFINITION. Decoding a command word, total on all words and rejecting by name (30_encoding.md R80 to R86), and
the encoder written from the same tables. -/

namespace Sys2Proof

/-- The fields of a command word: `OP = w[3:0]`, `SCHEME = w[5:4]`, `RSV = w[31:6]` (30_encoding.md R81). -/
def cmdFields (w : Word) : CmdFields :=
  { rsv := w.extractLsb' 6 26, scheme := w.extractLsb' 4 2, op := w.extractLsb' 0 4 }

/-- The word with the given fields (30_encoding.md R80). -/
def cmdWord (f : CmdFields) : Word := f.rsv ++ f.scheme ++ f.op

/-- The command that an operation code and a scheme code name when `RSV` is 0 (30_encoding.md R83, R84), or why
there is none (R85, R86). -/
def decodeOp (op scheme : Nat) : Except Reject Instr :=
  match op, scheme with
  | 0, 0 => .ok .nop
  | 1, 0 => .ok .cap
  | 2, 0 => .ok .encLsb
  | 2, 1 => .ok .encLsb2
  | 2, 2 => .ok .encRandom
  | 2, 3 => .error .autoOnEncode
  | 3, 0 => .ok .decLsb
  | 3, 1 => .ok .decLsb2
  | 3, 2 => .ok .decRandom
  | 3, 3 => .ok .decAuto
  | 4, 0 => .ok .analyze
  | 5, 0 => .ok .genpos
  | 6, 0 => .ok .xmask
  | 7, 0 => .ok .noise
  | 8, 0 => .ok .plaus
  | 15, 0 => .ok .srst
  | _, _ => .error .illegalCommand

/-- Decode a command word (30_encoding.md R81, R85, R86). -/
def decode (w : Word) : Except Reject Instr :=
  let f := cmdFields w
  if f.rsv = 0 then decodeOp f.op.toNat f.scheme.toNat else .error .illegalCommand

/-- The fields of a command's word: `OP` of 30_encoding.md R83, `SCHEME` of R82, `RSV` zero. -/
def instrFields : Instr → CmdFields
  | .nop => { rsv := 0, scheme := 0, op := 0 }
  | .cap => { rsv := 0, scheme := 0, op := 1 }
  | .encLsb => { rsv := 0, scheme := 0, op := 2 }
  | .encLsb2 => { rsv := 0, scheme := 1, op := 2 }
  | .encRandom => { rsv := 0, scheme := 2, op := 2 }
  | .decLsb => { rsv := 0, scheme := 0, op := 3 }
  | .decLsb2 => { rsv := 0, scheme := 1, op := 3 }
  | .decRandom => { rsv := 0, scheme := 2, op := 3 }
  | .decAuto => { rsv := 0, scheme := 3, op := 3 }
  | .analyze => { rsv := 0, scheme := 0, op := 4 }
  | .genpos => { rsv := 0, scheme := 0, op := 5 }
  | .xmask => { rsv := 0, scheme := 0, op := 6 }
  | .noise => { rsv := 0, scheme := 0, op := 7 }
  | .plaus => { rsv := 0, scheme := 0, op := 8 }
  | .srst => { rsv := 0, scheme := 0, op := 15 }

/-- The command word of a command (30_encoding.md R84). -/
def encode (i : Instr) : Word := cmdWord (instrFields i)

/-- What the decoder reads from a table word of `nbits` bits whose bits are `w`: every command is one 32-bit word
(30_encoding.md R80), bits above `nbits` are 0, and a longer word is no command. -/
def decodeTableWord (nbits w : Nat) : Option Instr :=
  if nbits ≤ 32 then (decode (BitVec.ofNat 32 (w % 2 ^ nbits))).toOption else none

end Sys2Proof
end

