-- ==== Sys2Proof/Machine/State.lean ====
section
/-! DEFINITION. The state of STEGCORE as plain data (10_state.md R20 to R39), the reasons a step can stop, and
the state after reset (70_reset_and_hazards.md R250, R251). -/

namespace Sys2Proof.Machine

/-- The contents of one element-addressed space (20_memory.md R60) in canonical form: (index, element) pairs, the
indices strictly rising, no element equal to what an unlisted index reads as (`unwritten` in Machine/Ops.lean). -/
abbrev Memory (w : Nat) := List (Nat × BitVec w)

/-- The four error kinds (60_exceptions.md R220). -/
inductive ErrKind where
  /-- "no image, empty message, missing required password" -/
  | invalidInput
  /-- "payload longer than capacity for the chosen scheme" -/
  | capacityExceeded
  /-- "encode/decode ran past the end of the pixel buffer before finishing the framed bitstream" -/
  | bufferExhausted
  /-- "decode completed but length prefix was 0 or exceeded 10000, or auto-detect exhausted all schemes" -/
  | noMessageFound
  deriving DecidableEq, Repr

/-- The rows of the cause table (60_exceptions.md R221): "no other pair is ever produced". The kind and the
codes of a row are `CmdError.kind`, `ErrKind.code` and `CmdError.cause` in Machine/Flags.lean. -/
inductive CmdError where
  | noImage
  | emptyMessage
  | missingPassword
  | illegalCommand
  | autoOnEncode
  | imageTooLarge
  | keyTooLong
  | countTooLarge
  | lengthTooLarge
  | overCapacity
  | overPayloadMax
  | prefixExhausted
  | payloadExhausted
  | positionsExhausted
  | lengthZero
  | lengthOverMax
  | autoExhausted
  deriving DecidableEq, Repr

/-- The fields of `STATUS` (10_state.md R25). `ERR`, `ERRKIND` and `ERRCAUSE` are one report, kept once in
`error`; the reserved bits read 0 and ignore writes, so the fields are the whole register (log entry 6). -/
structure Status where
  /-- Bit 0, `BUSY`. -/
  busy : Bool
  /-- Bit 1, `DONE`. -/
  done : Bool
  /-- Bit 2, `ERR` (some), with bits 6:4, `ERRKIND`, and bits 23:16, `ERRCAUSE`. -/
  error : Option CmdError
  /-- Bit 3, `PLAUS`. -/
  plaus : Bool
  /-- Bits 9:8, `SCHEME_USED`. -/
  schemeUsed : Codec
  deriving DecidableEq, Repr

/-- The fields of `CTRL` (10_state.md R27). -/
structure Ctrl where
  /-- Bit 0, `IE`. -/
  ie : Bool
  /-- Bit 1, `CIPHER_EN`. -/
  cipherEn : Bool
  deriving DecidableEq, Repr

/-- The spaces of 8-bit elements (20_memory.md R60). -/
inductive ByteSpace where
  | pix
  | pay
  | key
  deriving DecidableEq, Repr

/-- The spaces of 32-bit elements beside `REG` (20_memory.md R60). -/
inductive WordSpace where
  | pos
  | hist
  deriving DecidableEq, Repr

/-- What the memories hold when a hardware reset is released: 70_reset_and_hazards.md R251 leaves every element
unspecified, so the event carries the contents (log entry 8). Any list will do: elements outside a space are
dropped, a later pair wins, and an element not mentioned reads as `unwritten`. -/
structure PowerUp where
  pix : List (Nat × Byte)
  pay : List (Nat × Byte)
  key : List (Nat × Byte)
  pos : List (Nat × Word)
  hist : List (Nat × Word)
  deriving DecidableEq, Repr

/-- One operation of the outside world (20_memory.md R61, 70_reset_and_hazards.md R250). -/
inductive HostOp where
  /-- `HostRead(REG, i)`. -/
  | regRead (i : Nat)
  /-- `HostWrite(REG, i, v)`; slot 1 issues a command (10_state.md R26). -/
  | regWrite (i : Nat) (v : Word)
  /-- `HostRead(S, i)` for `S` in `PIX`, `PAY`, `KEY`. -/
  | byteRead (sp : ByteSpace) (i : Nat)
  /-- `HostWrite(S, i, v)` for `S` in `PIX`, `PAY`, `KEY`. -/
  | byteWrite (sp : ByteSpace) (i : Nat) (v : Byte)
  /-- `HostRead(S, i)` for `S` in `POS`, `HIST`. -/
  | wordRead (sp : WordSpace) (i : Nat)
  /-- `HostWrite(S, i, v)` for `S` in `POS`, `HIST`: ignored. -/
  | wordWrite (sp : WordSpace) (i : Nat) (v : Word)
  /-- The reset input is asserted and released. -/
  | hardReset (contents : PowerUp)
  deriving DecidableEq, Repr

/-- The whole state: the registers of 10_state.md R23 (`ID` is hardwired and `CMD` holds nothing, so neither is a
field), the five memories of R35 to R39, and the model's own fields after them. -/
structure State where
  /-- Slot 2, R25. -/
  status : Status
  /-- Slot 3, R27. -/
  ctrl : Ctrl
  /-- Slot 4, R28. -/
  width : BitVec 16
  /-- Slot 5, R28. -/
  height : BitVec 16
  /-- Slot 6, R29. -/
  payLen : BitVec 16
  /-- Slot 7, R30. -/
  keyLen : BitVec 16
  /-- Slot 8, R31. -/
  posCnt : Word
  /-- Slot 9, R32: two's complement. -/
  capacity : Word
  /-- Slot 10, R33. -/
  total : Word
  /-- Slot 11, R33. -/
  lsbOnes : Word
  /-- Slot 12, R33: UQ4.16. -/
  entropy : BitVec 20
  /-- Slot 13, R33: UQ1.16. -/
  lsbBias : BitVec 17
  /-- Slot 14, R33: UQ7.16. -/
  chiSq : BitVec 23
  /-- Slot 15, R33: UQ7.16. -/
  prob : BitVec 23
  /-- Slot 16, R33. -/
  histMax : Word
  /-- Slot 17, R34. -/
  rndCnt : Word
  /-- The pixel memory, R35. -/
  pix : Memory 8
  /-- The payload memory, R36. -/
  pay : Memory 8
  /-- The key memory, R37. -/
  key : Memory 8
  /-- The position memory, R38. -/
  pos : Memory 32
  /-- The histogram memory, R39. -/
  hist : Memory 32
  /-- The model's own: the open parameter `PIX_BYTES` = 4 * (pixSize + 1) (00_scope.md R7; log entry 1). -/
  pixSize : Fin 1073741824
  /-- The model's own: the answers the randomness source gives next (44_analysis.md R194; log entry 3). -/
  drawScript : List DrawWord
  /-- The model's own: how many draws were ever taken (log entry 3). -/
  drawn : Nat
  /-- The model's own: what the host does next, oldest first (20_memory.md R71; log entry 4). -/
  host : List HostOp
  /-- The model's own: what the last `HostRead` returned, none before the first (log entry 9). -/
  lastRead : Option Word
  /-- The model's own: how many unspecified values host reads have returned (log entry 10). -/
  freeReads : Nat
  deriving DecidableEq, Repr

/-- How a command's rule ends (60_exceptions.md R222): normally, or by a `raise`, with the state reached. -/
inductive Ending where
  | completed (s : State)
  | raised (e : CmdError) (s : State)
  deriving DecidableEq, Repr

/-- Why the machine stops with a fault: never. "no error and no input can put the block in a state from which a
command is not accepted" (60_exceptions.md R228), so no fault exists and nobody raises one. -/
inductive Fault where
  deriving DecidableEq, Repr

/-- Why an instruction has no meaning. -/
inductive Refusal where
  /-- Raised by an arm of `exec` whose instruction has no meaning yet: none in this model. Safe: the machine stops
  where the hardware goes on. -/
  | notModelled (mnemonic : String)
  deriving DecidableEq, Repr

/-- The machine right after reset: every register 0 (70_reset_and_hazards.md R250). The spec leaves the memories
unspecified (R251): here nothing is listed, so every element reads as `unwritten` (log entry 2). The model's own
fields: `PIX_BYTES` is the opaque parameter (log entry 1), nothing drawn, read or pending (log entries 3, 4, 9, 10). -/
def State.reset : State :=
  { status := { busy := false, done := false, error := none, plaus := false, schemeUsed := .lsb }
    ctrl := { ie := false, cipherEn := false }
    width := 0, height := 0, payLen := 0, keyLen := 0, posCnt := 0, capacity := 0
    total := 0, lsbOnes := 0, entropy := 0, lsbBias := 0, chiSq := 0, prob := 0, histMax := 0, rndCnt := 0
    pix := [], pay := [], key := [], pos := [], hist := []
    pixSize := Config.pixSize, drawScript := [], drawn := 0, host := [], lastRead := none, freeReads := 0 }

end Sys2Proof.Machine
end

