-- ==== Sys2Proof/Machine/Ops.lean ====
section
/-! DEFINITION. The named operations over memories, registers and the randomness source, and the command life
cycle: acceptance, normal completion and `raise` (60_exceptions.md R222), the block's one exception mechanism. -/

namespace Sys2Proof.Machine

/-! ### Memories (00_scope.md R10 `MemRead`, `MemWrite`) -/

/-- What an element reads as that no entry lists: 0 (the spec leaves it unspecified, 70_reset_and_hazards.md R251;
DESIGN CHOICE, log entry 2). -/
def unwritten {w : Nat} : BitVec w := 0#w

/-- `MemRead(S, i)`: one element. Reading has no side effect (20_memory.md R66). -/
def memRead {w : Nat} : Memory w → Nat → BitVec w
  | [], _ => unwritten
  | (j, v) :: rest, i => if j = i then v else memRead rest i

/-- An entry put in its place by index. -/
def memInsert {w : Nat} (i : Nat) (v : BitVec w) : Memory w → Memory w
  | [] => [(i, v)]
  | c :: rest => if i < c.1 then (i, v) :: c :: rest else c :: memInsert i v rest

/-- `MemWrite(S, i, v)`: one element, keeping the canonical form. What was listed for `i` goes, and the new element
is listed unless it is what an unlisted index reads as anyway. -/
def memWrite {w : Nat} (m : Memory w) (i : Nat) (v : BitVec w) : Memory w :=
  if v = unwritten then m.filter (fun c => c.1 ≠ i) else memInsert i v (m.filter fun c => c.1 ≠ i)

/-- `S[i] <- v0, S[i+1] <- v1, ...`, in that order. -/
def memStore {w : Nat} (m : Memory w) (i : Nat) : List (BitVec w) → Memory w
  | [] => m
  | v :: vs => memStore (memWrite m i v) (i + 1) vs

/-- The elements `S[i], ..., S[i+n-1]`. -/
def memSlice {w : Nat} (m : Memory w) (i n : Nat) : List (BitVec w) := (List.range n).map fun k => memRead m (i + k)

/-- The memory of `size` elements that holds the given pairs: pairs outside the space are dropped, and of two pairs
for one index the later wins. -/
def memOfCells {w : Nat} (size : Nat) (cells : List (Nat × BitVec w)) : Memory w :=
  cells.foldl (fun m c => if c.1 < size then memWrite m c.1 c.2 else m) []

/-- The canonical form of a memory of `size` elements: indices strictly rising and inside the space, no element
equal to what an unlisted index reads as. -/
abbrev Memory.wf {w : Nat} (size : Nat) (m : Memory w) : Prop :=
  m.Pairwise (fun a b => a.1 < b.1) ∧ ∀ c ∈ m, c.1 < size ∧ c.2 ≠ unwritten

/-! ### The command life cycle (60_exceptions.md R222) -/

/-- Acceptance: `DONE`, `ERR`, `ERRKIND`, `ERRCAUSE` <- 0 and `BUSY` <- 1; `PLAUS` and `SCHEME_USED` stay. -/
def State.accept (s : State) : State := { s with status := { s.status with busy := true, done := false, error := none } }

/-- Normal completion: `BUSY` <- 0, `DONE` <- 1; the report stays as acceptance left it. -/
def State.complete (s : State) : State := { s with status := { s.status with busy := false, done := true } }

/-- The report of `raise Kind(CAUSE)`: `ERR` <- 1, `ERRKIND`, `ERRCAUSE` <- the codes, `BUSY` <- 0, `DONE` <- 1.
Nothing is saved and nothing is vectored (R222). -/
def State.raise (e : CmdError) (s : State) : State :=
  { s with status := { s.status with busy := false, done := true, error := some e } }

/-- The report is cleared: by the host's write of 1 to `STATUS.DONE` (10_state.md R25, 60_exceptions.md R225). -/
def State.clearReport (s : State) : State := { s with status := { s.status with done := false, error := none } }

/-- The state a command leaves, by the way its rule ended. -/
def Ending.state : Ending → State
  | .completed s => s.complete
  | .raised e s => s.raise e

/-- One command as one atomic step (20_memory.md R67): acceptance, the command's rule, completion. -/
def runCommand (rule : State → Ending) (s : State) : Host.Outcome State Fault Refusal := .next (rule s.accept).state

/-- Tests in their textual order, each with the error it raises when it holds (60_exceptions.md R224). -/
abbrev Tests := List (Bool × CmdError)

/-- The error of the first test that holds: a command raises at most one error (60_exceptions.md R224). -/
def firstFailing : Tests → Option CmdError
  | [] => none
  | (fails, e) :: rest => if fails then some e else firstFailing rest

/-- Tests stand before the first write (60_exceptions.md R223): a failing test ends the rule with nothing changed. -/
def checked (tests : Tests) (s : State) (rule : State → Ending) : Ending :=
  match firstFailing tests with
  | some e => .raised e s
  | none => rule s

/-- A word that is no command is accepted, changes nothing but `STATUS` and completes with its error
(30_encoding.md R85, R86). -/
def rejectCommand (r : Reject) (s : State) : State :=
  s.accept.raise (match r with
    | .illegalCommand => .illegalCommand
    | .autoOnEncode => .autoOnEncode)

/-! ### Register and memory updates -/

def State.setPix (m : Memory 8) (s : State) : State := { s with pix := m }

def State.setPay (m : Memory 8) (s : State) : State := { s with pay := m }

def State.setPayLen (n : Nat) (s : State) : State := { s with payLen := BitVec.ofNat 16 n }

def State.setSchemeUsed (c : Codec) (s : State) : State := { s with status := { s.status with schemeUsed := c } }

def State.setPlaus (b : Bool) (s : State) : State := { s with status := { s.status with plaus := b } }

def State.setCapacity (c : Int) (s : State) : State := { s with capacity := BitVec.ofInt 32 c }

/-- `POS[i] <- P[i]` for `i < |P|` and `POSCNT <- |P|`; elements at `|P|` and above keep what they held
(41_posgen.md R132). -/
def State.storePositions (P : List Nat) (s : State) : State :=
  { s with pos := memStore s.pos 0 (P.map (BitVec.ofNat 32)), posCnt := BitVec.ofNat 32 P.length }

/-- Every register to its reset value (10_state.md R23, R250, R212); the memories and the model's own fields stay. -/
def State.resetRegisters (s : State) : State :=
  { State.reset with
    pix := s.pix, pay := s.pay, key := s.key, pos := s.pos, hist := s.hist
    pixSize := s.pixSize, drawScript := s.drawScript, drawn := s.drawn
    host := s.host, lastRead := s.lastRead, freeReads := s.freeReads }

/-! ### The randomness source (44_analysis.md R194) -/

/-- The value the next `Draw()` returns: the next of the script, or else a free value. -/
def State.nextDraw (s : State) : DrawWord :=
  match s.drawScript with
  | [] => Config.draw s.drawn
  | r :: _ => r

/-- What `Draw()` leaves: one value consumed, `RNDCNT <- (RNDCNT + 1) mod 2^32`. -/
def State.afterDraw (s : State) : State :=
  { s with drawScript := s.drawScript.tail, drawn := s.drawn + 1, rndCnt := s.rndCnt + 1 }

/-! ### Arithmetic (00_scope.md R9) -/

/-- `clamp(x, lo, hi) = min(hi, max(lo, x))`. -/
def clamp (x lo hi : Int) : Int := min hi (max lo x)

end Sys2Proof.Machine
end

