-- ==== Sys2Proof/Machine/Flags.lean ====
section
/-! DEFINITION. The bits of `STATUS` and `CTRL`, the error codes, and the interrupt line (10_state.md R25, R27;
30_encoding.md R82; 60_exceptions.md R220, R221, R226). -/

namespace Sys2Proof.Machine

/-- The scheme codes (30_encoding.md R82). -/
def codecCode : Codec → BitVec 2
  | .lsb => 0
  | .lsb2 => 1
  | .random => 2

/-- The kind of a row of the cause table (60_exceptions.md R221). -/
def CmdError.kind : CmdError → ErrKind
  | .noImage | .emptyMessage | .missingPassword | .illegalCommand | .autoOnEncode | .imageTooLarge
  | .keyTooLong | .countTooLarge | .lengthTooLarge => .invalidInput
  | .overCapacity | .overPayloadMax => .capacityExceeded
  | .prefixExhausted | .payloadExhausted | .positionsExhausted => .bufferExhausted
  | .lengthZero | .lengthOverMax | .autoExhausted => .noMessageFound

/-- `ERRKIND` (60_exceptions.md R220); 0 means no error and 5 to 7 are never produced. -/
def ErrKind.code : ErrKind → BitVec 3
  | .invalidInput => 1
  | .capacityExceeded => 2
  | .bufferExhausted => 3
  | .noMessageFound => 4

/-- `ERRCAUSE` (60_exceptions.md R221). -/
def CmdError.cause : CmdError → BitVec 8
  | .noImage => 1
  | .emptyMessage => 2
  | .missingPassword => 3
  | .illegalCommand => 4
  | .autoOnEncode => 5
  | .imageTooLarge => 6
  | .keyTooLong => 7
  | .countTooLarge => 8
  | .lengthTooLarge => 9
  | .overCapacity => 1
  | .overPayloadMax => 2
  | .prefixExhausted => 1
  | .payloadExhausted => 2
  | .positionsExhausted => 3
  | .lengthZero => 1
  | .lengthOverMax => 2
  | .autoExhausted => 3

/-- The field `ERRKIND`: the kind's code when `ERR` = 1, else 0 (10_state.md R25). -/
def Status.errKind (st : Status) : BitVec 3 :=
  match st.error with
  | none => 0
  | some e => e.kind.code

/-- The field `ERRCAUSE`: the cause's code when `ERR` = 1, else 0 (10_state.md R25). -/
def Status.errCause (st : Status) : BitVec 8 :=
  match st.error with
  | none => 0
  | some e => e.cause

/-- `STATUS` as one word, from bit 31 down to bit 0 (10_state.md R25): reserved 31:24, `ERRCAUSE` 23:16, reserved
15:10, `SCHEME_USED` 9:8, reserved 7, `ERRKIND` 6:4, `PLAUS` 3, `ERR` 2, `DONE` 1, `BUSY` 0. -/
def statusWord (st : Status) : Word :=
  0#8 ++ st.errCause ++ 0#6 ++ codecCode st.schemeUsed ++ 0#1 ++ st.errKind
    ++ BitVec.ofBool st.plaus ++ BitVec.ofBool st.error.isSome ++ BitVec.ofBool st.done ++ BitVec.ofBool st.busy

/-- `STATUS` as the host sees it while a command runs (20_memory.md R61): `BUSY` = 1, `DONE` = 0, `ERR` = 0, the
other fields taken from the unspecified value `u`, the reserved bits 0. -/
def busyStatusWord (u : Word) : Word := (u &&& 0x00FF0378#32) ||| 1#32

/-- `CTRL` as one word (10_state.md R27). -/
def ctrlWord (c : Ctrl) : Word := 0#30 ++ BitVec.ofBool c.cipherEn ++ BitVec.ofBool c.ie

/-- What a host write leaves in `CTRL`: bits 31:2 are reserved and ignored (10_state.md R22, R27). -/
def ctrlOfWord (v : Word) : Ctrl := { ie := v.getLsbD 0, cipherEn := v.getLsbD 1 }

/-- The interrupt line, level-sensitive: `irq = CTRL.IE AND STATUS.DONE` (60_exceptions.md R226). -/
def State.irq (s : State) : Bool := s.ctrl.ie && s.status.done

end Sys2Proof.Machine
end

