-- ==== Sys2Proof/Machine/Operands.lean ====
section
/-! DEFINITION. The operand forms of the commands: the image geometry, the channel order of the RGB samples, the
two sample formats, the payload and key bytes, and the tests on them that several commands share. -/

namespace Sys2Proof.Machine

/-! ### The image (10_state.md R28, R35) -/

/-- `PIX_BYTES` (00_scope.md R7). -/
def State.pixBytes (s : State) : Nat := 4 * (s.pixSize.val + 1)

/-- `W*H`, the number of pixels. -/
def State.pixels (s : State) : Nat := s.width.toNat * s.height.toNat

/-- `3*W*H`, the number of RGB samples: `C3` of 42_codecs.md, `N` of 41_posgen.md R123, `T` of 44_analysis.md R191. -/
def State.rgbCount (s : State) : Nat := 3 * s.pixels

/-- The offset of the RGB sample of channel index `j` (42_codecs.md R140). -/
def off (j : Nat) : Nat := 4 * (j / 3) + j % 3

/-- One step of the 2-bit scheme's walk (42_codecs.md R141): `p <- p + 1`, and once more if that would be an alpha
sample. -/
def walkNext (p : Nat) : Nat := if (p + 1 + 1) % 4 = 0 then p + 1 + 1 else p + 1

/-- The `k`-th visited offset of the 2-bit scheme's walk (42_codecs.md R141); the same offsets in the same order as
`off`, which the rule lets a model use for both sequential schemes. -/
def walk : Nat → Nat
  | 0 => 0
  | k + 1 => walkNext (walk k)

/-- The two tests of every command that needs an image (42_codecs.md R150, R154; 41_posgen.md R131; 44_analysis.md
R197; 45_noise_system.md R210). -/
def imageTests (s : State) : Tests :=
  [(s.pixels = 0, .noImage), (4 * s.pixels > s.pixBytes, .imageTooLarge)]

/-! ### Samples (42_codecs.md R142, R143; 30_encoding.md R88, R89) -/

/-- Format `S1`, write: `(x AND 0xFE) OR b`. -/
def setBit0 (x : Byte) (b : Bool) : Byte := (x &&& 0xFE#8) ||| BitVec.ofNat 8 b.toNat

/-- Format `S1`, read: `x mod 2`. -/
def bit0 (x : Byte) : Bool := x.getLsbD 0

/-- Format `S2`, write: `(x AND 0xFC) OR (2*b1 + b0)`, `b1` the earlier framed bit. -/
def setSymbol (x : Byte) (b1 b0 : Bool) : Byte := (x &&& 0xFC#8) ||| BitVec.ofNat 8 (2 * b1.toNat + b0.toNat)

/-- Format `S2`, read of framed bit `j` of the stream: bit `1 - (j mod 2)` of its sample (42_codecs.md R148). -/
def symbolBit (x : Byte) (j : Nat) : Bool := x.getLsbD (1 - j % 2)

/-- The RGB samples of the first `n` pixels in buffer order; alpha samples are not read (44_analysis.md R190). -/
def rgbSamples (m : Memory 8) (n : Nat) : List Byte :=
  (List.range n).flatMap fun p => [memRead m (4 * p), memRead m (4 * p + 1), memRead m (4 * p + 2)]

/-! ### Payload and key (43_cipher_capacity.md R180, R183) -/

/-- `XorMask(T, K)[i] = T[i] XOR K[i mod m]` (43_cipher_capacity.md R180). -/
def xorMask (text key : Nat → Byte) (m i : Nat) : Byte := text i ^^^ key (i % m)

/-- `XorMask` with the key `KEY[0 .. KEYLEN-1]` when the cipher is on, the text itself when it is off: the same
function masks before framing and unmasks after unframing (43_cipher_capacity.md R181, R183). -/
def State.cipher (s : State) (text : Nat → Byte) (i : Nat) : Byte :=
  if s.ctrl.cipherEn then xorMask text (memRead s.key) s.keyLen.toNat i else text i

/-- The payload as framed (42_codecs.md R150, `B[i]`): a transient copy, `PAY` is not modified. -/
def State.framedPayload (s : State) : Nat → Byte := s.cipher (memRead s.pay)

/-- The two tests on the key of a command that may use it (42_codecs.md R150, R154). -/
def cipherTests (s : State) : Tests :=
  [(s.ctrl.cipherEn && s.keyLen.toNat = 0, .missingPassword), (s.ctrl.cipherEn && s.keyLen.toNat > Config.keyMax, .keyTooLong)]

/-- `Cap(W, H) = ((3 * W * H) div 8) - 32`, a signed integer (43_cipher_capacity.md R185): the one capacity of all
three schemes (R186). -/
def cap (W H : Nat) : Int := (3 * W * H / 8 : Nat) - (Config.capReserve : Int)

/-- `Cap` of the image registers. -/
def State.cap (s : State) : Int := Machine.cap s.width.toNat s.height.toNat

end Sys2Proof.Machine
end

