-- ==== Sys2Proof/Machine/Analysis.lean ====
section
/-! DEFINITION. The Steganalysis Engine and `ANALYZE` (44_analysis.md). -/

namespace Sys2Proof.Machine

/-- The histogram `h[0 .. 255]` of the RGB samples, the three channels pooled (44_analysis.md R190). -/
def histogram (samples : List Byte) : List Nat :=
  (List.range Config.histSize).map fun v => samples.count (BitVec.ofNat 8 v)

/-- `ones`: the sum of `h[v]` over odd `v` (44_analysis.md R191). -/
def lsbOnesOf (h : List Nat) : Nat := ((List.range 128).map fun k => h.getD (2 * k + 1) 0).sum

/-- `D = abs(2*ones - T)` (44_analysis.md R193). -/
def biasDistance (T ones : Nat) : Nat := ((2 * ones : Int) - T).natAbs

/-- The test `2^(q*T) * (product of h[v]^h[v])^65536 <= (T^T)^65536` with `0^0 = 1` (44_analysis.md R192), that is
`Hent >= q/65536`. -/
def entropyAtLeast (T : Nat) (h : List Nat) (q : Nat) : Bool :=
  (2 ^ T) ^ q * (h.map fun k => k ^ k).prod ^ 65536 ≤ (T ^ T) ^ 65536

/-- The largest `q` that passes the test, from its bit `bits - 1` downward, with the higher bits settled in `q`. -/
def entropySearch (T : Nat) (h : List Nat) : Nat → Nat → Nat
  | 0, q => q
  | bits + 1, q => entropySearch T h bits (if entropyAtLeast T h (q + 2 ^ bits) then q + 2 ^ bits else q)

/-- `ENTROPY = floor(Hent * 65536)` in integers (44_analysis.md R192; log entry 7): the largest `q` that passes the
test, found bit by bit among the 20-bit numbers (it is at most 524288). -/
def entropyQ16 (T : Nat) (h : List Nat) : Nat := entropySearch T h 20 0

/-- `LSBBIAS = (D * 65536) div T` (44_analysis.md R193). -/
def lsbBiasQ16 (T D : Nat) : Nat := D * 65536 / T

/-- `CHISQ = min(6553600, (6553600 * D) div T + 50 * r1)` (44_analysis.md R195). -/
def chiSqQ16 (T D r1 : Nat) : Nat := min 6553600 (6553600 * D / T + 50 * r1)

/-- `base = 30*c1 + 20*c2 + 30*c3`, the three comparisons strict and on exact values (44_analysis.md R196). -/
def probBase (T D entropy r1 : Nat) : Nat :=
  (if 50 * D > T then 30 else 0) + (if entropy < 491520 then 20 else 0) +
    (if 6553600 * D + 50 * r1 * T > 3276800 * T then 30 else 0)

/-- `PROB = min(6225920, base * 65536 + 20 * r2)` (44_analysis.md R196). -/
def probQ16 (base r2 : Nat) : Nat := min 6225920 (base * 65536 + 20 * r2)

/-- `HISTMAX = max over v of h[v]` (44_analysis.md R199). -/
def histMaxOf (h : List Nat) : Nat := h.foldl max 0

/-- The snapshot registers and `HIST` (44_analysis.md R197) for the histogram `h` of `T` samples and the draws `r1`
(chi) and `r2` (probability). -/
def State.recordAnalysis (T : Nat) (h : List Nat) (r1 r2 : DrawWord) (s : State) : State :=
  { s with
    hist := memStore s.hist 0 (h.map (BitVec.ofNat 32))
    total := BitVec.ofNat 32 T
    lsbOnes := BitVec.ofNat 32 (lsbOnesOf h)
    entropy := BitVec.ofNat 20 (entropyQ16 T h)
    lsbBias := BitVec.ofNat 17 (lsbBiasQ16 T (biasDistance T (lsbOnesOf h)))
    chiSq := BitVec.ofNat 23 (chiSqQ16 T (biasDistance T (lsbOnesOf h)) r1.toNat)
    prob := BitVec.ofNat 23 (probQ16 (probBase T (biasDistance T (lsbOnesOf h)) (entropyQ16 T h) r1.toNat) r2.toNat)
    histMax := BitVec.ofNat 32 (histMaxOf h) }

/-- `ANALYZE` (44_analysis.md R197): `r1` is drawn before `r2`, always both. -/
def execAnalyze (s : State) : Host.Outcome State Fault Refusal :=
  runCommand (fun s => checked (imageTests s) s fun s =>
    .completed (s.afterDraw.afterDraw.recordAnalysis s.rgbCount (histogram (rgbSamples s.pix s.pixels))
      s.nextDraw s.afterDraw.nextDraw)) s

end Sys2Proof.Machine
end

