-- ==== Sys2Proof/Machine/Cipher.lean ====
section
/-! DEFINITION. `XMASK` and `CAP` (43_cipher_capacity.md R182, R185). -/

namespace Sys2Proof.Machine

/-- The tests of `XMASK` (43_cipher_capacity.md R182); `CTRL.CIPHER_EN` is not consulted. -/
def xmaskTests (s : State) : Tests :=
  [(s.keyLen.toNat = 0, .missingPassword), (s.keyLen.toNat > Config.keyMax, .keyTooLong),
    (s.payLen.toNat > Config.payMax, .lengthTooLarge)]

/-- `XMASK` (43_cipher_capacity.md R182): `PAY[i] <- PAY[i] XOR KEY[i mod m]` for `i` = 0 .. n-1. -/
def execXmask (s : State) : Host.Outcome State Fault Refusal :=
  runCommand (fun s => checked (xmaskTests s) s fun s =>
    .completed (s.setPay (memStore s.pay 0
      ((List.range s.payLen.toNat).map (xorMask (memRead s.pay) (memRead s.key) s.keyLen.toNat))))) s

/-- `CAP` (43_cipher_capacity.md R185): never raises. -/
def execCap (s : State) : Host.Outcome State Fault Refusal :=
  runCommand (fun s => .completed (s.setCapacity s.cap)) s

end Sys2Proof.Machine
end

