-- ==== Sys2Proof/Machine/Framer.lean ====
section
/-! DEFINITION. The Bit-Stream Framer (40_framer.md): the two functions every `ENC.*` and `DEC.*` uses. -/

namespace Sys2Proof.Machine

/-- `FrameBit(n, B, j)` (40_framer.md R100): bit `31-j` of `n` for `j < 32`, then bit `7-b` of character `i`. -/
def frameBit (n : Nat) (B : Nat → Byte) (j : Nat) : Bool :=
  if j < 32 then n.testBit (31 - j) else (B ((j - 32) / 8)).getLsbD (7 - (j - 32) % 8)

/-- `FrameLen(n) = 32 + 8*n` (40_framer.md R100). -/
def frameLen (n : Nat) : Nat := Config.prefixBits + 8 * n

/-- `len` bits of a stream from bit `start` on as an unsigned integer, the first bit the most significant
(20_memory.md R62, 30_encoding.md R90). -/
def readBits (get : Nat → Bool) (start len : Nat) : Nat :=
  (List.range len).foldl (fun v j => 2 * v + (get (start + j)).toNat) 0

/-- The length prefix of a stream (40_framer.md R102): unsigned, 0 to 2^32 - 1. -/
def readPrefix (get : Nat → Bool) : Nat := readBits get 0 Config.prefixBits

/-- Character `i` of a stream (40_framer.md R102). -/
def readChar (get : Nat → Bool) (i : Nat) : Byte := BitVec.ofNat 8 (readBits get (32 + 8 * i) 8)

/-- The tests of `Unframe` in their order (40_framer.md R102, R103). -/
def unframeTests (get : Nat → Bool) (avail : Nat) : Tests :=
  [(avail < Config.prefixBits, .prefixExhausted), (readPrefix get = 0, .lengthZero),
    (readPrefix get > Config.payMax, .lengthOverMax), (frameLen (readPrefix get) > avail, .payloadExhausted)]

/-- `Unframe(get, avail)` (40_framer.md R102): the characters, whose number is the decoded length; no partial
payload is ever delivered (R104). -/
def unframe (get : Nat → Bool) (avail : Nat) : Except CmdError (List Byte) :=
  match firstFailing (unframeTests get avail) with
  | some e => .error e
  | none => .ok ((List.range (readPrefix get)).map (readChar get))

end Sys2Proof.Machine
end

