-- ==== Sys2Proof/Machine/PosGen.lean ====
section
/-! DEFINITION. The Deterministic Position Generator and `GENPOS` (41_posgen.md). -/

namespace Sys2Proof.Machine

/-- The recurrence (41_posgen.md R121). -/
def lcgNext (s : Nat) : Nat := (s * Config.lcgA + Config.lcgC) % Config.lcgM

/-- The scaled index of a generator state, computed exactly (41_posgen.md R123). -/
def scaledIndex (N s : Nat) : Nat := s * N / Config.lcgM

/-- The remap to a buffer offset (41_posgen.md R124). -/
def candidate (N s : Nat) : Nat := scaledIndex N s + scaledIndex N s / 3

/-- The generator's loop (41_posgen.md R126): at most `steps` more steps from the state `s`, with `P` accepted so
far. Each step advances the state first and uses the new state (R121). -/
def genPosLoop (N count : Nat) : Nat → Nat → List Nat → List Nat
  | 0, _, P => P
  | steps + 1, s, P =>
    if P.length < count then
      if candidate N (lcgNext s) ∉ P ∧ (candidate N (lcgNext s) + 1) % 4 ≠ 0 then
        genPosLoop N count steps (lcgNext s) (P ++ [candidate N (lcgNext s)])
      else genPosLoop N count steps (lcgNext s) P
    else P

/-- `GenPos(W, H, count)` (41_posgen.md R126): re-seeded at every run, bounded by one full period. -/
def genPos (W H count : Nat) : List Nat := genPosLoop (3 * W * H) count Config.lcgM Config.lcgSeed []

/-- `GenPos` on the image registers. The request is cut to `3*W*H`, since no further distinct RGB offset exists: the
result is `GenPos(W, H, count)` all the same (DEDUCED, `genPos_cut` in Laws/PosGen.lean; log entry 11), and a run on
a small image ends when every offset is found instead of after a full period. -/
def State.genPos (s : State) (count : Nat) : List Nat :=
  Machine.genPos s.width.toNat s.height.toNat (min count s.rgbCount)

/-- The tests of `GENPOS` (41_posgen.md R131). -/
def genposTests (s : State) : Tests :=
  imageTests s ++ ([(s.posCnt.toNat > Config.posMax, .countTooLarge)] : Tests)

/-- `GENPOS` (41_posgen.md R131): a short sequence is kept and reported. -/
def execGenpos (s : State) : Host.Outcome State Fault Refusal :=
  runCommand (fun s => checked (genposTests s) s fun s =>
    let P := s.genPos s.posCnt.toNat
    if P.length < s.posCnt.toNat then .raised .positionsExhausted (s.storePositions P)
    else .completed (s.storePositions P)) s

end Sys2Proof.Machine
end

