-- ==== Sys2Proof/Machine/Codecs.lean ====
section
/-! DEFINITION. The channel codecs, the scheme selector, the plausibility filter and the auto-detect chain
(42_codecs.md): `ENC.*`, `DEC.*`, `PLAUS`. -/

namespace Sys2Proof.Machine

/-! ### Encoders (42_codecs.md R144 to R146) -/

/-- `PIX[at(j)] <- (PIX[at(j)] AND 0xFE) OR F(j)` for `j` = 0 .. L-1 in that order. -/
def embedBits (pos : Nat → Nat) (F : Nat → Bool) (L : Nat) (m : Memory 8) : Memory 8 :=
  (List.range L).foldl (fun m j => memWrite m (pos j) (setBit0 (memRead m (pos j)) (F j))) m

/-- `PIX[off(k)] <- (PIX[off(k)] AND 0xFC) OR (2*F(2k) + F(2k+1))` for `k` = 0 .. K-1 in that order. -/
def embedSymbols (F : Nat → Bool) (K : Nat) (m : Memory 8) : Memory 8 :=
  (List.range K).foldl (fun m k => memWrite m (off k) (setSymbol (memRead m (off k)) (F (2 * k)) (F (2 * k + 1)))) m

/-- The framed bits of the payload registers and memories (42_codecs.md section 2, `F(j)`). -/
def State.frame (s : State) : Nat → Bool := frameBit s.payLen.toNat s.framedPayload

/-- `EncodeSeq1` (42_codecs.md R144). -/
def encodeSeq1 (s : State) : Ending :=
  checked [(s.rgbCount < Config.prefixBits, .prefixExhausted), (frameLen s.payLen.toNat > s.rgbCount, .payloadExhausted)] s
    fun s => .completed (s.setPix (embedBits off s.frame (frameLen s.payLen.toNat) s.pix))

/-- `EncodeSeq2` (42_codecs.md R145): `L/2` symbols. -/
def encodeSeq2 (s : State) : Ending :=
  checked [(s.rgbCount < 16, .prefixExhausted), (frameLen s.payLen.toNat / 2 > s.rgbCount, .payloadExhausted)] s
    fun s => .completed (s.setPix (embedSymbols s.frame (frameLen s.payLen.toNat / 2) s.pix))

/-- `EncodeRand` (42_codecs.md R146): the sequence is stored before its length is tested. -/
def encodeRand (s : State) : Ending :=
  let P := s.genPos (frameLen s.payLen.toNat)
  checked [(P.length < Config.prefixBits, .prefixExhausted), (P.length < frameLen s.payLen.toNat, .payloadExhausted)]
    (s.storePositions P)
    fun s => .completed (s.setPix (embedBits (fun j => P.getD j 0) s.frame (frameLen s.payLen.toNat) s.pix))

/-- `EncChecks` (42_codecs.md R150): the same tests in the same order for all three schemes. -/
def encTests (s : State) : Tests :=
  imageTests s ++ ([(s.payLen.toNat = 0, .emptyMessage)] : Tests) ++ cipherTests s ++
    ([((s.payLen.toNat : Int) > s.cap, .overCapacity), (s.payLen.toNat > Config.payMax, .overPayloadMax)] : Tests)

/-- `ENC.lsb` (42_codecs.md R151). -/
def execEncLsb (s : State) : Host.Outcome State Fault Refusal :=
  runCommand (fun s => checked (encTests s) s encodeSeq1) s

/-- `ENC.lsb2` (42_codecs.md R152). -/
def execEncLsb2 (s : State) : Host.Outcome State Fault Refusal :=
  runCommand (fun s => checked (encTests s) s encodeSeq2) s

/-- `ENC.random` (42_codecs.md R153). -/
def execEncRandom (s : State) : Host.Outcome State Fault Refusal :=
  runCommand (fun s => checked (encTests s) s encodeRand) s

/-! ### Decoders (42_codecs.md R147 to R149) -/

/-- Framed bit `j` as `lsb` reads it (42_codecs.md R147). -/
def seq1Bit (m : Memory 8) (j : Nat) : Bool := bit0 (memRead m (off j))

/-- Framed bit `j` as `lsb2` reads it (42_codecs.md R148). -/
def seq2Bit (m : Memory 8) (j : Nat) : Bool := symbolBit (memRead m (off (j / 2))) j

/-- Framed bit `j` as `random` reads it over the positions `P` (42_codecs.md R149). -/
def randBit (m : Memory 8) (P : List Nat) (j : Nat) : Bool := bit0 (memRead m (P.getD j 0))

/-- `DecodeSeq1` (42_codecs.md R147). -/
def decodeSeq1 (s : State) : Except CmdError (List Byte) := unframe (seq1Bit s.pix) s.rgbCount

/-- `DecodeSeq2` (42_codecs.md R148). -/
def decodeSeq2 (s : State) : Except CmdError (List Byte) := unframe (seq2Bit s.pix) (2 * s.rgbCount)

/-- The positions of a randomized decode: exactly 1000 asked for (41_posgen.md R127). -/
def State.decPositions (s : State) : List Nat := s.genPos Config.decPosCount

/-- `DecodeRand` without its store of the positions (42_codecs.md R149). -/
def decodeRand (s : State) : Except CmdError (List Byte) := unframe (randBit s.pix s.decPositions) s.decPositions.length

/-- `DecChecks` (42_codecs.md R154). -/
def decTests (s : State) : Tests := imageTests s ++ cipherTests s

/-- `Deliver(code, n, B)` (42_codecs.md R154): `PAY` elements at `n` and above stay. -/
def State.deliver (code : Codec) (B : List Byte) (s : State) : State :=
  ((s.setPay (memStore s.pay 0 ((List.range B.length).map (s.cipher fun i => B.getD i 0)))).setPayLen B.length).setSchemeUsed code

/-- `Deliver` on success, `Fail` (42_codecs.md R154) on an error raised by a decoder: `PAYLEN` <- 0, `PAY` stays. -/
def finishDecode (code : Codec) (s : State) : Except CmdError (List Byte) → Ending
  | .ok B => .completed (s.deliver code B)
  | .error e => .raised e (s.setPayLen 0)

/-- `DEC.lsb` (42_codecs.md R155). -/
def execDecLsb (s : State) : Host.Outcome State Fault Refusal :=
  runCommand (fun s => checked (decTests s) s fun s => finishDecode .lsb s (decodeSeq1 s)) s

/-- `DEC.lsb2` (42_codecs.md R156). -/
def execDecLsb2 (s : State) : Host.Outcome State Fault Refusal :=
  runCommand (fun s => checked (decTests s) s fun s => finishDecode .lsb2 s (decodeSeq2 s)) s

/-- `DEC.random` (42_codecs.md R157): the positions are stored whether or not the decode succeeds. -/
def execDecRandom (s : State) : Host.Outcome State Fault Refusal :=
  runCommand (fun s => checked (decTests s) s fun s =>
    finishDecode .random (s.storePositions s.decPositions) (decodeRand s)) s

/-! ### Plausibility and auto-detect (42_codecs.md R158 to R160) -/

/-- A character the filter counts: 32 to 126, line feed or carriage return (42_codecs.md R158). -/
def printable (b : Byte) : Bool := (32 ≤ b.toNat && b.toNat ≤ 126) || b.toNat = 10 || b.toNat = 13

/-- `Plausible(n, B)` with `n` the length of `B` (42_codecs.md R158): at least 80 percent, in integers. -/
def plausible (B : List Byte) : Bool :=
  !(B.length < 1 || B.length > Config.payMax) && 5 * B.countP printable ≥ 4 * B.length

/-- A trial of `DEC.auto` under the plausibility check: an error is "result absent" (42_codecs.md R159). -/
def plausibleResult : Except CmdError (List Byte) → Option (List Byte)
  | .ok B => if plausible B then some B else none
  | .error _ => none

/-- The fallback chain of `DEC.auto` after its checks (42_codecs.md R159): the third trial bypasses the filter, and
its own error is reported as `AUTO_EXHAUSTED`. -/
def decodeAuto (s : State) : Ending :=
  match plausibleResult (decodeSeq1 s) with
  | some B => .completed (s.deliver .lsb B)
  | none =>
    match plausibleResult (decodeSeq2 s) with
    | some B => .completed (s.deliver .lsb2 B)
    | none =>
      match decodeRand s with
      | .ok B => .completed ((s.storePositions s.decPositions).deliver .random B)
      | .error _ => .raised .autoExhausted ((s.storePositions s.decPositions).setPayLen 0)

/-- `DEC.auto` (42_codecs.md R159). -/
def execDecAuto (s : State) : Host.Outcome State Fault Refusal :=
  runCommand (fun s => checked (decTests s) s decodeAuto) s

/-- `PLAUS` (42_codecs.md R160): `PAY` is not read when `PAYLEN` is above 10000. -/
def execPlaus (s : State) : Host.Outcome State Fault Refusal :=
  runCommand (fun s => .completed (s.setPlaus
    (if s.payLen.toNat > Config.payMax then false else plausible (memSlice s.pay 0 s.payLen.toNat)))) s

end Sys2Proof.Machine
end

