-- ==== Sys2Proof/Machine/Noise.lean ====
section
/-! DEFINITION. The Noise Injector and the housekeeping commands: `NOISE`, `NOP`, `SRST` (45_noise_system.md). -/

namespace Sys2Proof.Machine

/-- `clamp(x + d, 0, 255)` of one sample (45_noise_system.md R210). -/
def clampAdd (x : Byte) (d : Int) : Byte := BitVec.ofInt 8 (clamp (x.toNat + d) 0 255)

/-- The three colour samples of pixel `p` are changed by `d`, in the order R, G, B; alpha is not touched. -/
def nudgePixel (p : Nat) (d : Int) (m : Memory 8) : Memory 8 :=
  [0, 1, 2].foldl (fun m c => memWrite m (4 * p + c) (clampAdd (memRead m (4 * p + c)) d)) m

/-- The selection test on a 16-bit draw: `10 * r < 65536` (45_noise_system.md R210). -/
def selects (r : DrawWord) : Bool := 10 * r.toNat < 65536

/-- The sign a second draw gives the whole pixel (45_noise_system.md R210). -/
def signOf (r : DrawWord) : Int := if r.toNat < 32768 then -1 else 1

/-- One pixel of `NOISE` (45_noise_system.md R210): the second draw is taken only for a selected pixel. -/
def noisePixel (s : State) (p : Nat) : State :=
  if selects s.nextDraw then
    s.afterDraw.afterDraw.setPix (nudgePixel p (signOf s.afterDraw.nextDraw) s.pix)
  else s.afterDraw

/-- `NOISE` (45_noise_system.md R210): pixels in buffer order. -/
def execNoise (s : State) : Host.Outcome State Fault Refusal :=
  runCommand (fun s => checked (imageTests s) s fun s =>
    .completed ((List.range s.pixels).foldl noisePixel s)) s

/-- `NOP` (45_noise_system.md R211): nothing but the completion report. -/
def execNop (s : State) : Host.Outcome State Fault Refusal := runCommand (fun s => .completed s) s

/-- `SRST` (45_noise_system.md R212): every register to its reset value, the memories kept; the only command that
completes without setting `DONE`. -/
def execSrst (s : State) : Host.Outcome State Fault Refusal := .next s.accept.resetRegisters

end Sys2Proof.Machine
end

