-- ==== Sys2Proof/Machine/Dispatch.lean ====
section
/-! DEFINITION. One arm per command, each one call of its meaning. -/

namespace Sys2Proof.Machine

def exec (i : Instr) (s : State) : Host.Outcome State Fault Refusal :=
  match i with
  | .nop => Sys2Proof.Machine.execNop s
  | .cap => Sys2Proof.Machine.execCap s
  | .encLsb => Sys2Proof.Machine.execEncLsb s
  | .encLsb2 => Sys2Proof.Machine.execEncLsb2 s
  | .encRandom => Sys2Proof.Machine.execEncRandom s
  | .decLsb => Sys2Proof.Machine.execDecLsb s
  | .decLsb2 => Sys2Proof.Machine.execDecLsb2 s
  | .decRandom => Sys2Proof.Machine.execDecRandom s
  | .decAuto => Sys2Proof.Machine.execDecAuto s
  | .analyze => Sys2Proof.Machine.execAnalyze s
  | .genpos => Sys2Proof.Machine.execGenpos s
  | .xmask => Sys2Proof.Machine.execXmask s
  | .noise => Sys2Proof.Machine.execNoise s
  | .plaus => Sys2Proof.Machine.execPlaus s
  | .srst => Sys2Proof.Machine.execSrst s

end Sys2Proof.Machine
end

