-- ==== Sys2Proof/Machine/HostPort.lean ====
section
/-! DEFINITION. The host's operations on the block: `HostRead`, `HostWrite` (20_memory.md R61), the register map
(10_state.md R22 to R34) and the reset input (70_reset_and_hazards.md R250, R251). -/

namespace Sys2Proof.Machine

/-! ### The register file -/

/-- `HostRead(REG, i)` while `BUSY` = 0 (10_state.md R22, R23): whole words; `ID` is hardwired, `CMD` reads 0, the
reserved slots and everything outside the space read 0. -/
def regReadValue (s : State) : Nat → Word
  | 0 => Config.idWord
  | 1 => 0
  | 2 => statusWord s.status
  | 3 => ctrlWord s.ctrl
  | 4 => s.width.setWidth 32
  | 5 => s.height.setWidth 32
  | 6 => s.payLen.setWidth 32
  | 7 => s.keyLen.setWidth 32
  | 8 => s.posCnt
  | 9 => s.capacity
  | 10 => s.total
  | 11 => s.lsbOnes
  | 12 => s.entropy.setWidth 32
  | 13 => s.lsbBias.setWidth 32
  | 14 => s.chiSq.setWidth 32
  | 15 => s.prob.setWidth 32
  | 16 => s.histMax
  | 17 => s.rndCnt
  | _ => 0

/-- `HostWrite(REG, i, v)` while `BUSY` = 0 for a slot other than `CMD`: reserved bits, read-only registers,
reserved slots and everything outside the space ignore writes; bit 1 of `STATUS` is write-1-to-clear
(10_state.md R22, R23, R25). -/
def regWriteEffect (s : State) (i : Nat) (v : Word) : State :=
  match i with
  | 2 => if v.getLsbD 1 then s.clearReport else s
  | 3 => { s with ctrl := ctrlOfWord v }
  | 4 => { s with width := v.setWidth 16 }
  | 5 => { s with height := v.setWidth 16 }
  | 6 => { s with payLen := v.setWidth 16 }
  | 7 => { s with keyLen := v.setWidth 16 }
  | 8 => { s with posCnt := v }
  | _ => s

/-! ### The memories -/

/-- The number of elements of a space of 8-bit elements (20_memory.md R60). -/
def byteSize (s : State) : ByteSpace → Nat
  | .pix => s.pixBytes
  | .pay => Config.payMax
  | .key => Config.keyMax

/-- The number of elements of a space of 32-bit elements (20_memory.md R60). -/
def wordSize : WordSpace → Nat
  | .pos => Config.posMax
  | .hist => Config.histSize

def byteMem (s : State) : ByteSpace → Memory 8
  | .pix => s.pix
  | .pay => s.pay
  | .key => s.key

def wordMem (s : State) : WordSpace → Memory 32
  | .pos => s.pos
  | .hist => s.hist

def setByteMem (s : State) (sp : ByteSpace) (m : Memory 8) : State :=
  match sp with
  | .pix => { s with pix := m }
  | .pay => { s with pay := m }
  | .key => { s with key := m }

/-- `HostRead(S, i)` of an 8-bit element while `BUSY` = 0; outside the space 0 (20_memory.md R61). -/
def byteReadValue (s : State) (sp : ByteSpace) (i : Nat) : Word :=
  if i < byteSize s sp then (memRead (byteMem s sp) i).setWidth 32 else 0

/-- `HostRead(S, i)` of a 32-bit element while `BUSY` = 0; outside the space 0 (20_memory.md R61). -/
def wordReadValue (s : State) (sp : WordSpace) (i : Nat) : Word :=
  if i < wordSize sp then memRead (wordMem s sp) i else 0

/-- `HostWrite(S, i, v)` of an 8-bit element while `BUSY` = 0; outside the space no effect (20_memory.md R61). -/
def byteWriteEffect (s : State) (sp : ByteSpace) (i : Nat) (v : Byte) : State :=
  if i < byteSize s sp then setByteMem s sp (memWrite (byteMem s sp) i v) else s

/-! ### Operations -/

/-- A host read returns `v`. -/
def State.returnRead (v : Word) (s : State) : State := { s with lastRead := some v }

/-- A host read while `BUSY` = 1 returns what `f` makes of the next unspecified value (20_memory.md R61). -/
def State.returnFree (f : Word → Word) (s : State) : State :=
  { s with lastRead := some (f (Config.busyRead s.freeReads)), freeReads := s.freeReads + 1 }

/-- The reset input (70_reset_and_hazards.md R250, R251): registers to their reset values, a running command
abandoned (`BUSY` = 0), the memories holding whatever `u` says, the randomness source not affected. -/
def State.hardReset (u : PowerUp) (s : State) : State :=
  { s.resetRegisters with
    pix := memOfCells s.pixBytes u.pix
    pay := memOfCells Config.payMax u.pay
    key := memOfCells Config.keyMax u.key
    pos := memOfCells Config.posMax u.pos
    hist := memOfCells Config.histSize u.hist }

/-- The command word that an operation issues: a write to `CMD` (slot 1) while `BUSY` = 0 (10_state.md R26). -/
def issuedCommand (s : State) : HostOp → Option Word
  | .regWrite i v => if i = 1 ∧ s.status.busy = false then some v else none
  | _ => none

/-- What a host operation does while `BUSY` = 0, if it issues no command. -/
def idleEffect (s : State) : HostOp → State
  | .regRead i => s.returnRead (regReadValue s i)
  | .regWrite i v => regWriteEffect s i v
  | .byteRead sp i => s.returnRead (byteReadValue s sp i)
  | .byteWrite sp i v => byteWriteEffect s sp i v
  | .wordRead sp i => s.returnRead (wordReadValue s sp i)
  | .wordWrite _ _ _ => s
  | .hardReset u => s.hardReset u

/-- What a host operation does while `BUSY` = 1 (20_memory.md R61): every write is ignored; a read of `STATUS` shows
`BUSY` = 1, `DONE` = 0, `ERR` = 0; every other read returns an unspecified element; reset stops the command. -/
def busyEffect (s : State) : HostOp → State
  | .regRead i => s.returnFree (if i = 2 then busyStatusWord else id)
  | .regWrite _ _ => s
  | .byteRead _ _ => s.returnFree (fun u => u &&& 0xFF#32)
  | .byteWrite _ _ _ => s
  | .wordRead _ _ => s.returnFree id
  | .wordWrite _ _ _ => s
  | .hardReset u => s.hardReset u

/-- A host operation that issues no command. -/
def hostEffect (s : State) (op : HostOp) : State := if s.status.busy then busyEffect s op else idleEffect s op

end Sys2Proof.Machine
end

