-- ==== Sys2Proof/Machine/Step.lean ====
section
/-! DEFINITION. One step of the machine: the host's next operation (20_memory.md R71), a command being one atomic
step (R67). -/

namespace Sys2Proof.Machine

/-- A command word is issued: decoded, and executed or rejected (10_state.md R26, 30_encoding.md R81). -/
def issue (w : Word) (s : State) : Host.Outcome State Fault Refusal :=
  match decode w with
  | .ok i => exec i s
  | .error r => .next (rejectCommand r s)

/-- One step: the oldest pending host operation takes effect; with none pending the block waits
(70_reset_and_hazards.md R250). -/
def step (s : State) : Host.Outcome State Fault Refusal :=
  match s.host with
  | [] => .next s
  | op :: rest =>
    match issuedCommand s op with
    | some w => issue w { s with host := rest }
    | none => .next (hostEffect { s with host := rest } op)

/-- The state whose very next step runs the command word `w` of `nbits` bits: the host's next operation is the
write of that word to `CMD`, and no command is running (log entry 4). -/
def State.withFetchWord (s : State) (nbits w : Nat) : State :=
  { s with
    status := { s.status with busy := false }
    host := .regWrite 1 (BitVec.ofNat 32 (w % 2 ^ nbits)) :: s.host }

end Sys2Proof.Machine
end

