-- ==== Sys2Proof/Safety.lean ====
section
/-! DEFINITION. What the claims speak of: the conditions on the operands under which a command runs to its own
effect, the report a command leaves, and the invariant of the machine. -/

namespace Sys2Proof.Machine

/-! ### Conditions on registers alone -/

/-- There is an image and it fits the pixel memory (10_state.md R28). -/
abbrev State.HasImage (s : State) : Prop :=
  0 < s.width.toNat * s.height.toNat ∧ 4 * (s.width.toNat * s.height.toNat) ≤ s.pixBytes

/-- A key in use is neither empty nor too long (43_cipher_capacity.md R183). -/
abbrev State.KeyUsable (s : State) : Prop := s.ctrl.cipherEn = true → 0 < s.keyLen.toNat ∧ s.keyLen.toNat ≤ 256

/-- None of the tests of `EncChecks` fails (42_codecs.md R150). -/
abbrev State.EncReady (s : State) : Prop :=
  s.HasImage ∧ 0 < s.payLen.toNat ∧ s.KeyUsable ∧
    (s.payLen.toNat : Int) ≤ (3 * (s.width.toNat * s.height.toNat) / 8 : Nat) - 32 ∧ s.payLen.toNat ≤ 10000

/-- None of the tests of `DecChecks` fails (42_codecs.md R154). -/
abbrev State.DecReady (s : State) : Prop := s.HasImage ∧ s.KeyUsable

/-- None of the tests of `XMASK` fails (43_cipher_capacity.md R182). -/
abbrev State.XmaskReady (s : State) : Prop := 0 < s.keyLen.toNat ∧ s.keyLen.toNat ≤ 256 ∧ s.payLen.toNat ≤ 10000

/-- The positions that exist: `Reach(W, H) = min(3*W*H, 233280)` (41_posgen.md R130). -/
def State.reach (s : State) : Nat := min (3 * (s.width.toNat * s.height.toNat)) 233280

/-! ### Reports -/

/-- `STATUS` after a command other than `SRST` (60_exceptions.md R222): `BUSY` = 0, `DONE` = 1 and the report `e`;
`PLAUS` and `SCHEME_USED` as they were. -/
def Status.reported (st : Status) (e : Option CmdError) : Status := { st with busy := false, done := true, error := e }

/-- The state after a command that changed nothing but `STATUS` and reported `e`. -/
def State.reporting (e : Option CmdError) (s : State) : State := { s with status := s.status.reported e }

/-! ### The invariant -/

/-- What every state of a run satisfies: every memory is in its canonical form inside its space (20_memory.md R60);
no command is running between steps (R67); a report stands only with `DONE` (10_state.md R25 "cleared together with
`DONE`"); the result registers are in the ranges of 10_state.md R32 and 44_analysis.md R201. -/
structure State.Inv (s : State) : Prop where
  pix : Memory.wf s.pixBytes s.pix
  pay : Memory.wf 10000 s.pay
  key : Memory.wf 256 s.key
  pos : Memory.wf 80032 s.pos
  hist : Memory.wf 256 s.hist
  idle : s.status.busy = false
  report : s.status.error.isSome → s.status.done = true
  capacity : -32 ≤ s.capacity.toInt ∧ s.capacity.toInt ≤ 1610563552
  ones : s.lsbOnes.toNat ≤ s.total.toNat
  entropy : s.entropy.toNat ≤ 524288
  lsbBias : s.lsbBias.toNat ≤ 65536
  chiSq : s.chiSq.toNat ≤ 6553600
  prob : s.prob.toNat ≤ 6225920
  histMax : s.histMax.toNat ≤ s.total.toNat

end Sys2Proof.Machine
end

