-- ==== Sys2Proof/Certificates/Slice0/Obligations.lean ====
section
/-! DEFINITION. The statements about STEGCORE that the provers settle. Each docstring names the rule of spec/ it
formalises. Where a statement speaks of a register's number it is the host's view (`regReadValue`, 10_state.md R23);
an element of a memory is read by `memRead`, the model's read of one element. -/

namespace Sys2Proof.Claims

open Sys2Proof.Machine

/-! ### Words used in the statements -/

/-- The fifteen legal command words, copied from the table of 30_encoding.md R84. -/
def commandTable : List (Word × Instr) :=
  [(0x00000000#32, .nop), (0x00000001#32, .cap), (0x00000002#32, .encLsb), (0x00000012#32, .encLsb2),
    (0x00000022#32, .encRandom), (0x00000003#32, .decLsb), (0x00000013#32, .decLsb2), (0x00000023#32, .decRandom),
    (0x00000033#32, .decAuto), (0x00000004#32, .analyze), (0x00000005#32, .genpos), (0x00000006#32, .xmask),
    (0x00000007#32, .noise), (0x00000008#32, .plaus), (0x0000000F#32, .srst)]

/-- The three encode commands. -/
def encCommands : List Instr := [.encLsb, .encLsb2, .encRandom]

/-- The three decode commands of an explicit scheme. -/
def schemeDecCommands : List Instr := [.decLsb, .decLsb2, .decRandom]

/-- The four decode commands. -/
def decCommands : List Instr := [.decLsb, .decLsb2, .decRandom, .decAuto]

/-- The pairs (`ERRKIND`, `ERRCAUSE`) of the table of 60_exceptions.md R234. -/
def errorTable : Instr → List (Nat × Nat)
  | .nop | .cap | .plaus | .srst => []
  | .encLsb | .encLsb2 | .encRandom => [(1, 1), (1, 6), (1, 2), (1, 3), (1, 7), (2, 1), (2, 2)]
  | .decLsb | .decLsb2 | .decRandom => [(1, 1), (1, 6), (1, 3), (1, 7), (3, 1), (4, 1), (4, 2), (3, 2)]
  | .decAuto => [(1, 1), (1, 6), (1, 3), (1, 7), (4, 3)]
  | .analyze | .noise => [(1, 1), (1, 6)]
  | .genpos => [(1, 1), (1, 6), (1, 8), (3, 3)]
  | .xmask => [(1, 3), (1, 7), (1, 9)]

/-- The pair (`ERRKIND`, `ERRCAUSE`) of a named cause, copied from the table of 60_exceptions.md R221. -/
def codes : CmdError → Nat × Nat
  | .noImage => (1, 1)
  | .emptyMessage => (1, 2)
  | .missingPassword => (1, 3)
  | .illegalCommand => (1, 4)
  | .autoOnEncode => (1, 5)
  | .imageTooLarge => (1, 6)
  | .keyTooLong => (1, 7)
  | .countTooLarge => (1, 8)
  | .lengthTooLarge => (1, 9)
  | .overCapacity => (2, 1)
  | .overPayloadMax => (2, 2)
  | .prefixExhausted => (3, 1)
  | .payloadExhausted => (3, 2)
  | .positionsExhausted => (3, 3)
  | .lengthZero => (4, 1)
  | .lengthOverMax => (4, 2)
  | .autoExhausted => (4, 3)

/-- The number of an error kind, copied from 60_exceptions.md R220. -/
def kindNumber : ErrKind → Nat
  | .invalidInput => 1
  | .capacityExceeded => 2
  | .bufferExhausted => 3
  | .noMessageFound => 4

/-- The number each register slot reads as, by the names and places of 10_state.md R22, R23 to R34: slots 18 and above
read 0. -/
def registerMap (s : State) : Nat → Nat
  | 0 => 0x53544731
  | 1 => 0
  | 2 => (statusWord s.status).toNat
  | 3 => s.ctrl.ie.toNat + 2 * s.ctrl.cipherEn.toNat
  | 4 => s.width.toNat
  | 5 => s.height.toNat
  | 6 => s.payLen.toNat
  | 7 => s.keyLen.toNat
  | 8 => s.posCnt.toNat
  | 9 => s.capacity.toNat
  | 10 => s.total.toNat
  | 11 => s.lsbOnes.toNat
  | 12 => s.entropy.toNat
  | 13 => s.lsbBias.toNat
  | 14 => s.chiSq.toNat
  | 15 => s.prob.toNat
  | 16 => s.histMax.toNat
  | 17 => s.rndCnt.toNat
  | _ => 0

/-- One step of the generator by the arithmetic of 41_posgen.md R121. -/
def ruleNext (s : Nat) : Nat := (s * 9301 + 49297) % 233280

/-- The offset a generator state proposes, by the arithmetic of 41_posgen.md R123 and R124: with
`k = (s*N) div 233280`, `o = k + (k div 3)`. -/
def ruleOffset (N s : Nat) : Nat := s * N / 233280 + s * N / 233280 / 3

/-- `W*H` of a state. -/
abbrev area (s : State) : Nat := s.width.toNat * s.height.toNat

/-- The payload byte `i` as framed (42_codecs.md R150): masked by the repeating key exactly when the cipher is on. -/
def framedByte (s : State) (i : Nat) : Byte :=
  if s.ctrl.cipherEn then memRead s.pay i ^^^ memRead s.key (i % s.keyLen.toNat) else memRead s.pay i

/-- Bit `j` of the framed stream as the number 0 or 1, by the arithmetic of 40_framer.md R100. -/
def framedBit (s : State) (j : Nat) : Nat :=
  if j < 32 then s.payLen.toNat / 2 ^ (31 - j) % 2
  else (framedByte s ((j - 32) / 8)).toNat / 2 ^ (7 - (j - 32) % 8) % 2

/-- The positions a randomized decode regenerates (41_posgen.md R127). -/
def decPositions (s : State) : List Nat := genPos s.width.toNat s.height.toNat 1000

/-- Framed bit `j` as a decode command of an explicit scheme reads it, as the number 0 or 1 (42_codecs.md R147,
R148, R149). -/
def readBit (i : Instr) (s : State) (j : Nat) : Nat :=
  if i = .decLsb then (memRead s.pix (off j)).toNat % 2
  else if i = .decLsb2 then (memRead s.pix (off (j / 2))).toNat / 2 ^ (1 - j % 2) % 2
  else (memRead s.pix ((decPositions s).getD j 0)).toNat % 2

/-- The number of framed bits the scheme can deliver (42_codecs.md R147, R148, R149). -/
def available (i : Instr) (s : State) : Nat :=
  if i = .decLsb then 3 * area s else if i = .decLsb2 then 2 * (3 * area s) else (decPositions s).length

/-- The length prefix as assembled on decode: the sum over `j` = 0 .. 31 of `bit(j) * 2^(31-j)` (30_encoding.md R90). -/
def decodedPrefix (i : Instr) (s : State) : Nat := ((List.range 32).map fun j => readBit i s j * 2 ^ (31 - j)).sum

/-- Character `k` as assembled on decode (30_encoding.md R90). -/
def decodedChar (i : Instr) (s : State) (k : Nat) : Nat :=
  ((List.range 8).map fun b => readBit i s (32 + 8 * k + b) * 2 ^ (7 - b)).sum

/-- The scheme's framed bits hold the valid message `B` (40_framer.md R102). -/
def holdsMessage (i : Instr) (s : State) (B : List Byte) : Prop :=
  0 < decodedPrefix i s ∧ decodedPrefix i s ≤ 10000 ∧ 32 + 8 * decodedPrefix i s ≤ available i s ∧
    B = (List.range (decodedPrefix i s)).map fun k => BitVec.ofNat 8 (decodedChar i s k)

/-- The scheme a decode command of an explicit scheme reports. -/
def schemeOf (i : Instr) : Codec := if i = .decLsb then .lsb else if i = .decLsb2 then .lsb2 else .random

/-- The `k`-th of the draws a command takes from the state `s` on (44_analysis.md R194): the script's, and beyond it
free values. -/
def drawAt (s : State) (k : Nat) : Nat := ((s.drawScript[k]?).getD (Config.draw (s.drawn + k))).toNat

/-- The number of draws `NOISE` takes for the first `p` pixels (45_noise_system.md R210). -/
def drawsBefore (s : State) : Nat → Nat
  | 0 => 0
  | p + 1 => drawsBefore s p + (if 10 * drawAt s (drawsBefore s p) < 65536 then 2 else 1)

/-- `h[v]`: how many RGB samples of the image equal `v` (44_analysis.md R190). -/
def sampleCount (s : State) (v : Nat) : Nat :=
  (List.range (3 * area s)).countP fun j => (memRead s.pix (off j)).toNat = v

/-- `ones`: how many RGB samples are odd (44_analysis.md R191). -/
def oddCount (s : State) : Nat := (List.range (3 * area s)).countP fun j => (memRead s.pix (off j)).toNat % 2 = 1

/-- `D = abs(2*ones - T)` (44_analysis.md R193). -/
def biasOf (s : State) : Nat := ((2 * oddCount s : Int) - (3 * area s : Nat)).natAbs

/-- How many of the first `n` characters of `PAY` the plausibility filter counts (42_codecs.md R158). -/
def printableCount (s : State) (n : Nat) : Nat :=
  (List.range n).countP fun i =>
    (32 ≤ (memRead s.pay i).toNat && (memRead s.pay i).toNat ≤ 126) || (memRead s.pay i).toNat = 10 || (memRead s.pay i).toNat = 13

/-- The position memory and `POSCNT` hold the sequence `P` (41_posgen.md R132): elements beyond it as before. -/
def holdsPositions (s t : State) (P : List Nat) : Prop :=
  t.posCnt.toNat = P.length ∧ (∀ k < P.length, (memRead t.pos k).toNat = P.getD k 0) ∧
    ∀ k, P.length ≤ k → memRead t.pos k = memRead s.pos k

end Sys2Proof.Claims

open Sys2Proof Sys2Proof.Machine Sys2Proof.Claims

/-! ### Encoding -/

/-- 30_encoding.md R81, R84: a word is legal exactly when it is one of the fifteen, and every other word is rejected
by R85 or R86; decoding and encoding agree. -/
def Obligations.DecodeFollowsTheCommandTable : Prop :=
  ∀ w : Word,
    (∀ i, decode w = .ok i ↔ (w, i) ∈ commandTable) ∧ (∀ i, decode w = .ok i ↔ encode i = w) ∧
    (decode w = .error .autoOnEncode ↔ w = 0x00000032#32) ∧
    (decode w = .error .illegalCommand ↔ w ≠ 0x00000032#32 ∧ ∀ i, (w, i) ∉ commandTable)

/-- A sanity check on the encoder: each command's word is the table's and decodes back. -/
def Obligations.EncodedCommandDecodesBack : Prop :=
  ∀ i : Instr, (encode i, i) ∈ commandTable ∧ decode (encode i) = .ok i

/-- 30_encoding.md R85, the whole rule. -/
def Obligations.IllegalWordOnlyReports : Prop :=
  ∀ (s : State) (w : Word) (rest : List HostOp), s.status.busy = false → s.host = .regWrite 1 w :: rest →
    (w.toNat / 64 ≠ 0 ∨ (9 ≤ w.toNat % 16 ∧ w.toNat % 16 ≤ 14) ∨
      (w.toNat / 16 % 4 ≠ 0 ∧ w.toNat % 16 ∈ [0, 1, 4, 5, 6, 7, 8, 15])) →
    step s = .next (State.reporting (some .illegalCommand) { s with host := rest })

/-- 30_encoding.md R86. -/
def Obligations.AutoOnEncodeOnlyReports : Prop :=
  ∀ (s : State) (rest : List HostOp), s.status.busy = false → s.host = .regWrite 1 0x00000032#32 :: rest →
    step s = .next (State.reporting (some .autoOnEncode) { s with host := rest })

/-! ### Steps and the host port -/

/-- 10_state.md R26: a write to `CMD` while `BUSY` = 0 issues the command the word decodes to, a write while `BUSY`
= 1 is ignored, and the register reads as 0. -/
def Obligations.StepRunsTheIssuedCommand : Prop :=
  (∀ (s : State) (w : Word) (rest : List HostOp), s.host = .regWrite 1 w :: rest →
    (s.status.busy = false → ∀ i, decode w = .ok i → step s = exec i { s with host := rest }) ∧
    (s.status.busy = false → ∀ r, decode w = .error r → step s = .next (rejectCommand r { s with host := rest })) ∧
    (s.status.busy = true → step s = .next { s with host := rest })) ∧
  ∀ s : State, regReadValue s 1 = 0#32

/-- The model's choice (log entry 4): with no host operation pending the block waits. -/
def Obligations.IdleBlockWaits : Prop := ∀ s : State, s.host = [] → step s = .next s

/-- 60_exceptions.md R228: no state stops the block, and a block that accepts commands goes on accepting them. -/
def Obligations.EveryStepAnswersNext : Prop :=
  ∀ s : State, ∃ t, step s = .next t ∧ (s.status.busy = false → t.status.busy = false)

/-- 20_memory.md R60, R61, the sizes and the writes of `PIX`, `PAY` and `KEY`: inside the space the one element is replaced and every other
element of every space stays; outside it nothing happens. -/
def Obligations.HostWriteReplacesOneElement : Prop :=
  ∀ (s : State) (sp : ByteSpace) (i : Nat) (v : Byte) (rest : List HostOp), s.status.busy = false →
    s.host = .byteWrite sp i v :: rest →
    (s.pixBytes = 4 * (s.pixSize.val + 1) ∧ byteSize s .pix = s.pixBytes ∧ byteSize s .pay = 10000 ∧ byteSize s .key = 256) ∧
    (byteMem s .pix = s.pix ∧ byteMem s .pay = s.pay ∧ byteMem s .key = s.key) ∧
    ∃ t, step s = .next t ∧
      (i < byteSize s sp → ∀ sp' j, memRead (byteMem t sp') j =
        if sp' = sp ∧ j = i then v else memRead (byteMem s sp') j) ∧
      (byteSize s sp ≤ i → t = { s with host := rest }) ∧
      t = { s with host := rest, pix := t.pix, pay := t.pay, key := t.key }

/-- 20_memory.md R60, R61, while `BUSY` = 0: reads of the six spaces and the ignored writes of `POS` and `HIST`. What
a register slot reads as is the statement `RegisterWriteIsReadBack`. -/
def Obligations.HostReadReturnsTheElement : Prop :=
  ∀ (s : State) (rest : List HostOp), s.status.busy = false →
    (∀ i, s.host = .regRead i :: rest → step s = .next { s with host := rest, lastRead := some (regReadValue s i) }) ∧
    (s.pixBytes = 4 * (s.pixSize.val + 1) ∧ byteSize s .pix = s.pixBytes ∧ byteSize s .pay = 10000 ∧ byteSize s .key = 256 ∧
      wordSize .pos = 80032 ∧ wordSize .hist = 256) ∧
    (byteMem s .pix = s.pix ∧ byteMem s .pay = s.pay ∧ byteMem s .key = s.key ∧
      wordMem s .pos = s.pos ∧ wordMem s .hist = s.hist) ∧
    (∀ sp i, s.host = .byteRead sp i :: rest → ∃ v, step s = .next { s with host := rest, lastRead := some v } ∧
      v.toNat = if i < byteSize s sp then (memRead (byteMem s sp) i).toNat else 0) ∧
    (∀ sp i, s.host = .wordRead sp i :: rest → ∃ v, step s = .next { s with host := rest, lastRead := some v } ∧
      v = if i < wordSize sp then memRead (wordMem s sp) i else 0#32) ∧
    (∀ sp i v, s.host = .wordWrite sp i v :: rest → step s = .next { s with host := rest })

/-- 20_memory.md R61, while `BUSY` = 1: every write is ignored, a read of `STATUS` shows `BUSY` = 1, `DONE` = 0, `ERR`
= 0, and no access changes anything of the block. The values read are free values. That the reserved bits of such a
`STATUS` read are 0 is the model's reading of R61 by 10_state.md R22 and R25 (log entry 10): R61 alone leaves every
other field unspecified. -/
def Obligations.AccessWhileBusyChangesNothing : Prop :=
  ∀ (s : State) (op : HostOp) (rest : List HostOp), s.status.busy = true → s.host = op :: rest →
    (∀ u, op ≠ .hardReset u) →
    ∃ t, step s = .next t ∧ t = { s with host := rest, lastRead := t.lastRead, freeReads := t.freeReads } ∧
      ((∃ i v, op = .regWrite i v) ∨ (∃ sp i v, op = .byteWrite sp i v) ∨ (∃ sp i v, op = .wordWrite sp i v) →
        t = { s with host := rest }) ∧
      (op = .regRead 2 → ∃ v : Word, t.lastRead = some v ∧ v.toNat % 8 = 1 ∧ v.getLsbD 7 = false ∧
        v.toNat / 1024 % 64 = 0 ∧ v.toNat / 16777216 = 0)

/-- 10_state.md R22 to R34, the register map: what each slot reads as, and for a write the field it goes to; the
written register is read back with its reserved bits 0, read-only and reserved slots ignore writes, and no other
register changes. -/
def Obligations.RegisterWriteIsReadBack : Prop :=
  (∀ (s : State) (i : Nat), (regReadValue s i).toNat = registerMap s i) ∧
  ∀ (s : State) (i : Nat) (v : Word) (rest : List HostOp), s.status.busy = false → i ≠ 1 →
    s.host = .regWrite i v :: rest →
    ∃ t, step s = .next t ∧
      (∀ j, j ≠ 2 → regReadValue t j =
        if j = i ∧ i = 3 then BitVec.ofNat 32 (v.toNat % 4)
        else if j = i ∧ 4 ≤ i ∧ i ≤ 7 then BitVec.ofNat 32 (v.toNat % 65536)
        else if j = i ∧ i = 8 then v
        else regReadValue s j) ∧
      t.ctrl = (if i = 3 then { ie := v.toNat % 2 = 1, cipherEn := v.toNat / 2 % 2 = 1 } else s.ctrl) ∧
      t.width.toNat = (if i = 4 then v.toNat % 65536 else s.width.toNat) ∧
      t.height.toNat = (if i = 5 then v.toNat % 65536 else s.height.toNat) ∧
      t.payLen.toNat = (if i = 6 then v.toNat % 65536 else s.payLen.toNat) ∧
      t.keyLen.toNat = (if i = 7 then v.toNat % 65536 else s.keyLen.toNat) ∧
      t.posCnt = (if i = 8 then v else s.posCnt) ∧
      (i ≠ 2 → t.status = s.status) ∧
      t = { s with host := rest, status := t.status, ctrl := t.ctrl, width := t.width, height := t.height,
                   payLen := t.payLen, keyLen := t.keyLen, posCnt := t.posCnt }

/-- 10_state.md R25: the places of the fields of `STATUS`, its reserved bits, and the write of 1 to `DONE`; with the
numbers of 60_exceptions.md R220 and R221 for every kind and cause, and of 30_encoding.md R82 for the schemes. -/
def Obligations.StatusWordAndItsClearing : Prop :=
  (∀ e : CmdError, kindNumber e.kind = (codes e).1 ∧ e.kind.code.toNat = (codes e).1 ∧ e.cause.toNat = (codes e).2) ∧
  (∀ st : Status,
    (statusWord st).getLsbD 0 = st.busy ∧ (statusWord st).getLsbD 1 = st.done ∧
    (statusWord st).getLsbD 2 = st.error.isSome ∧ (statusWord st).getLsbD 3 = st.plaus ∧
    (statusWord st).toNat / 16 % 8 = (match st.error with
      | none => 0
      | some e => (codes e).1) ∧
    (statusWord st).getLsbD 7 = false ∧
    (statusWord st).toNat / 256 % 4 = (match st.schemeUsed with
      | .lsb => 0
      | .lsb2 => 1
      | .random => 2) ∧
    (statusWord st).toNat / 1024 % 64 = 0 ∧
    (statusWord st).toNat / 65536 % 256 = (match st.error with
      | none => 0
      | some e => (codes e).2) ∧
    (statusWord st).toNat / 16777216 = 0) ∧
  ∀ (s : State) (v : Word) (rest : List HostOp), s.status.busy = false → s.host = .regWrite 2 v :: rest →
    step s = .next { s with host := rest, status :=
      if v.toNat / 2 % 2 = 1 then { s.status with done := false, error := none } else s.status }

/-- 60_exceptions.md R226, the interrupt line: its equation, high after every completion with `IE` = 1
(but `SRST`'s, R212), and its fall when `DONE` is cleared or `IE` is written 0. -/
def Obligations.InterruptLineFollowsDone : Prop :=
  (∀ s : State, s.irq = true ↔ s.ctrl.ie = true ∧ s.status.done = true) ∧
  (∀ (s : State) (v : Word) (rest : List HostOp), s.status.busy = false →
    (s.host = .regWrite 1 v :: rest → s.ctrl.ie = true → decode v ≠ .ok .srst → ∃ t, step s = .next t ∧ t.irq = true) ∧
    (s.host = .regWrite 2 v :: rest → v.getLsbD 1 = true → ∃ t, step s = .next t ∧ t.irq = false) ∧
    (s.host = .regWrite 3 v :: rest → v.getLsbD 0 = false → ∃ t, step s = .next t ∧ t.irq = false))

/-! ### Reset -/

/-- 70_reset_and_hazards.md R250: after the reset input, and in `State.reset`, every register but `ID` reads 0, no
command runs and the interrupt line is low. -/
def Obligations.ResetZeroesTheRegisters : Prop :=
  (∀ (s : State) (u : PowerUp) (rest : List HostOp), s.host = .hardReset u :: rest →
    ∃ t, step s = .next t ∧ regReadValue t 0 = 0x53544731#32 ∧ (∀ i, i ≠ 0 → regReadValue t i = 0#32) ∧
      t.status.busy = false ∧ t.irq = false) ∧
  regReadValue State.reset 0 = 0x53544731#32 ∧ (∀ i, i ≠ 0 → regReadValue State.reset i = 0#32) ∧
  State.reset.status.busy = false ∧ State.reset.irq = false

/-- 70_reset_and_hazards.md R251 as the model carries it (log entry 8): whatever five contents one names, some reset
event leaves the memories holding them; the randomness source is not affected. -/
def Obligations.ResetMayLeaveAnyContents : Prop :=
  ∀ (s : State) (rest : List HostOp) (fpix fpay fkey : Nat → Byte) (fpos fhist : Nat → Word),
    ∃ u t, step { s with host := .hardReset u :: rest } = .next t ∧
      (∀ i < s.pixBytes, memRead t.pix i = fpix i) ∧ (∀ i < 10000, memRead t.pay i = fpay i) ∧
      (∀ i < 256, memRead t.key i = fkey i) ∧ (∀ i < 80032, memRead t.pos i = fpos i) ∧
      (∀ i < 256, memRead t.hist i = fhist i) ∧
      t.drawScript = s.drawScript ∧ t.drawn = s.drawn ∧ t.pixSize = s.pixSize ∧ t.host = rest

/-! ### The life cycle of a command and rules over all commands -/

/-- 60_exceptions.md R222: how `STATUS` stands after a command. -/
def Obligations.CommandsEndWithTheirReport : Prop :=
  ∀ (i : Instr) (s : State), ∃ t, exec i s = .next t ∧
    (i = .srst → statusWord t.status = 0#32) ∧
    (i ≠ .srst → t.status.busy = false ∧ t.status.done = true ∧
      (i ≠ .plaus → t.status.plaus = s.status.plaus) ∧
      (t.status.error.isSome ∨ i ∉ decCommands → t.status.schemeUsed = s.status.schemeUsed))

/-- 60_exceptions.md R234: no command reports a pair outside its row. -/
def Obligations.ErrorsOnlyFromTheTable : Prop :=
  ∀ (i : Instr) (s t : State) (e : CmdError), exec i s = .next t → t.status.error = some e → i ≠ .srst →
    codes e ∈ errorTable i

/-- 60_exceptions.md R234: every pair of every row is reported in some state. -/
def Obligations.EveryTableErrorOccurs : Prop :=
  ∀ (i : Instr), ∀ p ∈ errorTable i, ∃ s t e, exec i s = .next t ∧ t.status.error = some e ∧ codes e = p

/-- 60_exceptions.md R223: what a failing command leaves behind. Only `STATUS`, and for a decode that failed past its
checks `PAYLEN` = 0, and where the generator ran `POS` and `POSCNT`. -/
def Obligations.FailureLeavesTheDataAlone : Prop :=
  ∀ (i : Instr) (s t : State) (e : CmdError), exec i s = .next t → t.status.error = some e → i ≠ .srst →
    t = { s with status := s.status.reported (some e), payLen := t.payLen, pos := t.pos, posCnt := t.posCnt } ∧
    (i ∈ decCommands ∧ e.kind ≠ .invalidInput → t.payLen = 0#16) ∧
    (i ∉ decCommands ∨ e.kind = .invalidInput → t.payLen = s.payLen) ∧
    (i ∉ [.genpos, .decRandom, .decAuto] ∨ e.kind = .invalidInput → t.pos = s.pos ∧ t.posCnt = s.posCnt)

/-- 10_state.md R41: the outcome of a command does not depend on `STATUS`. -/
def Obligations.StatusIsNeverAnInput : Prop :=
  ∀ (i : Instr) (s t : State) (st : Status), exec i s = .next t →
    ∃ t', exec i { s with status := st } = .next t' ∧ { t' with status := t.status } = t ∧
      t'.status.busy = t.status.busy ∧ t'.status.done = t.status.done ∧ t'.status.error = t.status.error

/-- 10_state.md R33, R34, R38, R39: no command reads the analysis snapshot, `CAPACITY`, `RNDCNT`, `POS` or `HIST`: with
other values there, it does the same to every register and memory it does not write there. -/
def Obligations.ResultsAreNeverAnInput : Prop :=
  ∀ (i : Instr) (s t : State) (capacity total lsbOnes histMax rndCnt : Word) (entropy : BitVec 20)
    (lsbBias : BitVec 17) (chiSq prob : BitVec 23) (pos hist : Memory 32), exec i s = .next t →
    ∃ t', exec i { s with capacity := capacity, total := total, lsbOnes := lsbOnes, histMax := histMax, rndCnt := rndCnt,
                          entropy := entropy, lsbBias := lsbBias, chiSq := chiSq, prob := prob, pos := pos, hist := hist } = .next t' ∧
      { t' with capacity := t.capacity, total := t.total, lsbOnes := t.lsbOnes, histMax := t.histMax, rndCnt := t.rndCnt,
                entropy := t.entropy, lsbBias := t.lsbBias, chiSq := t.chiSq, prob := t.prob, pos := t.pos, hist := t.hist } = t

/-- 10_state.md R42: the write sets. What a command does not write stays, for every command. -/
def Obligations.CommandsKeepToTheirWriteSets : Prop :=
  ∀ (i : Instr) (s t : State), exec i s = .next t →
    t.key = s.key ∧ t.pixSize = s.pixSize ∧ t.host = s.host ∧ t.lastRead = s.lastRead ∧ t.freeReads = s.freeReads ∧
    (i ≠ .srst → t.ctrl = s.ctrl ∧ t.width = s.width ∧ t.height = s.height ∧ t.keyLen = s.keyLen) ∧
    (i ∉ .noise :: encCommands → t.pix = s.pix) ∧
    (i ∉ .xmask :: decCommands → t.pay = s.pay) ∧
    (i ∉ .srst :: decCommands → t.payLen = s.payLen) ∧
    (i ∉ [.genpos, .encRandom, .decRandom, .decAuto] → t.pos = s.pos) ∧
    (i ∉ [.genpos, .encRandom, .decRandom, .decAuto, .srst] → t.posCnt = s.posCnt) ∧
    (i ∉ [.cap, .srst] → t.capacity = s.capacity) ∧
    (i ≠ .analyze → t.hist = s.hist) ∧
    (i ∉ [.analyze, .srst] → t.total = s.total ∧ t.lsbOnes = s.lsbOnes ∧ t.entropy = s.entropy ∧
      t.lsbBias = s.lsbBias ∧ t.chiSq = s.chiSq ∧ t.prob = s.prob ∧ t.histMax = s.histMax) ∧
    (i ∉ [.analyze, .noise] → t.drawScript = s.drawScript ∧ t.drawn = s.drawn) ∧
    (i ∉ [.analyze, .noise, .srst] → t.rndCnt = s.rndCnt)

/-- 00_scope.md R5 "no rule ever writes an alpha sample", 10_state.md R35 "Elements at index `4*W*H` and above are
never read or written by any command", here the writes. -/
def Obligations.AlphaAndBeyondAreNeverWritten : Prop :=
  ∀ (i : Instr) (s t : State) (a : Nat), exec i s = .next t → a % 4 = 3 ∨ 4 * area s ≤ a →
    memRead t.pix a = memRead s.pix a

/-- 10_state.md R35 and 42_codecs.md R140, here the reads: two pixel memories that agree on the RGB samples of the
image give the same outcome. -/
def Obligations.AlphaAndBeyondAreNeverRead : Prop :=
  ∀ (i : Instr) (s t : State) (m : Memory 8), exec i s = .next t →
    (∀ a, a % 4 ≠ 3 → a < 4 * area s → memRead m a = memRead s.pix a) →
    ∃ t', exec i { s with pix := m } = .next t' ∧ { t' with pix := t.pix } = t ∧
      ∀ a, a % 4 ≠ 3 → a < 4 * area s → memRead t'.pix a = memRead t.pix a

/-! ### The invariant -/

/-- Every step keeps `State.Inv`: canonical memories inside their spaces, no command left running, a report only with
`DONE`, the result registers in their ranges (20_memory.md R60, R67, 10_state.md R25, R32, 44_analysis.md R201). -/
def Obligations.StepKeepsTheInvariant : Prop := ∀ s t : State, s.Inv → step s = .next t → t.Inv

/-- The state after reset meets the invariant; the memories' contents there are the model's choice (log entry 2). -/
def Obligations.ResetMeetsTheInvariant : Prop := State.reset.Inv

/-! ### Housekeeping, capacity, cipher, plausibility -/

/-- 45_noise_system.md R211. -/
def Obligations.NopOnlyReports : Prop := ∀ s : State, exec .nop s = .next (s.reporting none)

/-- 45_noise_system.md R212. -/
def Obligations.SrstResetsRegistersOnly : Prop :=
  ∀ s : State, ∃ t, exec .srst s = .next t ∧ regReadValue t 0 = 0x53544731#32 ∧ (∀ i, i ≠ 0 → regReadValue t i = 0#32) ∧
    t.status.busy = false ∧ t.status.done = false ∧ t.irq = false ∧
    t.pix = s.pix ∧ t.pay = s.pay ∧ t.key = s.key ∧ t.pos = s.pos ∧ t.hist = s.hist ∧
    t.drawScript = s.drawScript ∧ t.drawn = s.drawn ∧ t.pixSize = s.pixSize ∧ t.host = s.host ∧
    t.lastRead = s.lastRead ∧ t.freeReads = s.freeReads

/-- 43_cipher_capacity.md R185: `CAP` never raises and stores `floor(3*W*H/8) - 32`. -/
def Obligations.CapStoresTheCapacity : Prop :=
  ∀ s : State, ∃ t, exec .cap s = .next t ∧
    t.capacity.toInt = (3 * (s.width.toNat * s.height.toNat) / 8 : Nat) - 32 ∧
    -32 ≤ t.capacity.toInt ∧ t.capacity.toInt ≤ 1610563552 ∧
    t = { s.reporting none with capacity := t.capacity }

/-- 42_codecs.md R158, R160: `PLAUS` never raises and reports the filter's verdict. -/
def Obligations.PlausReportsTheVerdict : Prop :=
  ∀ s : State, ∃ t, exec .plaus s = .next t ∧
    (t.status.plaus = true ↔ 1 ≤ s.payLen.toNat ∧ s.payLen.toNat ≤ 10000 ∧
      5 * printableCount s s.payLen.toNat ≥ 4 * s.payLen.toNat) ∧
    t = { s with status := { s.status.reported none with plaus := t.status.plaus } }

/-- 43_cipher_capacity.md R182: the three refusals in their order, and otherwise the masked payload. -/
def Obligations.XmaskMasksThePayload : Prop :=
  ∀ s : State,
    (s.keyLen.toNat = 0 → exec .xmask s = .next (s.reporting (some .missingPassword))) ∧
    (256 < s.keyLen.toNat → exec .xmask s = .next (s.reporting (some .keyTooLong))) ∧
    (0 < s.keyLen.toNat → s.keyLen.toNat ≤ 256 → 10000 < s.payLen.toNat →
      exec .xmask s = .next (s.reporting (some .lengthTooLarge))) ∧
    (s.XmaskReady → ∃ t, exec .xmask s = .next t ∧
      (∀ i < s.payLen.toNat, memRead t.pay i = memRead s.pay i ^^^ memRead s.key (i % s.keyLen.toNat)) ∧
      (∀ i, s.payLen.toNat ≤ i → memRead t.pay i = memRead s.pay i) ∧
      t = { s.reporting none with pay := t.pay })

/-- 43_cipher_capacity.md R181, of the mask of R180: masking twice with the same non-empty key is the identity, for the function and for
the command. -/
def Obligations.MaskingTwiceRestores : Prop :=
  (∀ (T K : Nat → Byte) (m : Nat), 0 < m → ∀ i, xorMask T K m i = T i ^^^ K (i % m) ∧
    xorMask (xorMask T K m) K m i = T i) ∧
  (∀ s t : State, s.XmaskReady → exec .xmask s = .next t →
    ∃ u, exec .xmask t = .next u ∧ ∀ i, memRead u.pay i = memRead s.pay i)

/-! ### The position generator -/

/-- 41_posgen.md R131: the refusals in their order, and otherwise the sequence in `POS` and `POSCNT`, a short one
reported. -/
def Obligations.GenposStoresTheSequence : Prop :=
  ∀ s : State,
    (area s = 0 → exec .genpos s = .next (s.reporting (some .noImage))) ∧
    (0 < area s → s.pixBytes < 4 * area s → exec .genpos s = .next (s.reporting (some .imageTooLarge))) ∧
    (s.HasImage → 80032 < s.posCnt.toNat → exec .genpos s = .next (s.reporting (some .countTooLarge))) ∧
    (s.HasImage → s.posCnt.toNat ≤ 80032 → ∃ t, exec .genpos s = .next t ∧
      holdsPositions s t (genPos s.width.toNat s.height.toNat s.posCnt.toNat) ∧
      t = { s with status := s.status.reported
                     (if (genPos s.width.toNat s.height.toNat s.posCnt.toNat).length < s.posCnt.toNat
                      then some .positionsExhausted else none),
                   pos := t.pos, posCnt := t.posCnt })

/-- 41_posgen.md R130: how many positions exist, and that `GENPOS` completes without error exactly on the requests
that can be satisfied. -/
def Obligations.EveryReachablePositionIsFound : Prop :=
  (∀ W H count : Nat, 0 < W * H → (genPos W H count).length = min count (min (3 * (W * H)) 233280)) ∧
  (∀ N s : Nat, scaledIndex N s = s * N / 233280) ∧
  (∀ N : Nat, 0 < N → N ≤ 233280 → ∀ k < N, ∃ s < 233280, scaledIndex N s = k) ∧
  (∀ N : Nat, 233280 < N → ∀ s < 233280, ∀ s' < 233280, scaledIndex N s = scaledIndex N s' → s = s') ∧
  (∀ s : State, s.HasImage → s.posCnt.toNat ≤ 80032 →
    ∃ t, exec .genpos s = .next t ∧ t.status.busy = false ∧ t.status.done = true ∧
      (t.status.error = none ↔ s.posCnt.toNat ≤ s.reach))

/-- 41_posgen.md R129. -/
def Obligations.PositionsAreDistinctColourSamples : Prop :=
  ∀ W H count : Nat, (genPos W H count).Nodup ∧
    ∀ o ∈ genPos W H count, (o + 1) % 4 ≠ 0 ∧ (0 < W * H → o < 4 * (W * H))

/-- 41_posgen.md R128: a shorter request is a prefix of a longer one, and only the product `W*H` matters. -/
def Obligations.PositionsArePrefixStable : Prop :=
  (∀ W H c1 c2 : Nat, c1 ≤ c2 → genPos W H c1 = (genPos W H c2).take c1) ∧
  ∀ W H W' H' count : Nat, W * H = W' * H' → genPos W H count = genPos W' H' count

/-- 41_posgen.md R122: the generator, by the recurrence of R121, has full period 233280. -/
def Obligations.GeneratorHasFullPeriod : Prop :=
  (∀ s : Nat, lcgNext s = (s * 9301 + 49297) % 233280) ∧
  lcgNext^[233280] 12345 = 12345 ∧
  (∀ i j : Nat, 1 ≤ i → i ≤ 233280 → 1 ≤ j → j ≤ 233280 → lcgNext^[i] 12345 = lcgNext^[j] 12345 → i = j) ∧
  ∀ r < 233280, ∃ i, 1 ≤ i ∧ i ≤ 233280 ∧ lcgNext^[i] 12345 = r

/-- 41_posgen.md R121, R123 to R126, by the rules' own arithmetic: the sequence is the first `count` different RGB
offsets among the candidates of the states 1 to 233280, in the order of the states. -/
def Obligations.PositionsAreTheFirstDistinctCandidates : Prop :=
  ∀ W H count : Nat, genPos W H count =
    ((((List.range 233280).map fun i => ruleOffset (3 * (W * H)) (ruleNext^[i + 1] 12345)).filter
      fun o => (o + 1) % 4 ≠ 0).eraseDups).take count

/-! ### The channel order and the framer -/

/-- 42_codecs.md R140, R141: which samples the sequential schemes visit, and that the 2-bit walk visits the same. -/
def Obligations.SequentialSchemesVisitColourSamplesInOrder : Prop :=
  (∀ j, off j = 4 * (j / 3) + j % 3) ∧
  (∀ j, off j % 4 ≠ 3) ∧ (∀ i j, i < j → off i < off j) ∧ (∀ a, a % 4 ≠ 3 → ∃ j, off j = a) ∧
  (∀ j px, off j < 4 * px ↔ j < 3 * px) ∧
  (∀ k, walk k = off k) ∧ (∀ k px, 4 * px ≤ walk k ↔ 3 * px ≤ k)

/-- 40_framer.md R106. -/
def Obligations.UnframeInvertsFrame : Prop :=
  ∀ (n : Nat) (B : Nat → Byte) (avail : Nat), 1 ≤ n → n ≤ 10000 → 32 + 8 * n ≤ avail →
    unframe (frameBit n B) avail = .ok ((List.range n).map B)

/-- 40_framer.md R100: the bits of the stream by the rule's arithmetic, and the worked example. -/
def Obligations.FrameBitsFollowTheRule : Prop :=
  (∀ (n : Nat) (B : Nat → Byte) (j : Nat), j < 32 + 8 * n →
    (frameBit n B j).toNat = if j < 32 then n / 2 ^ (31 - j) % 2
      else (B ((j - 32) / 8)).toNat / 2 ^ (7 - (j - 32) % 8) % 2) ∧
  (List.range 48).filter (frameBit 2 (fun i => if i = 0 then 0x48#8 else 0x49#8)) = [30, 33, 36, 41, 44, 47]

/-! ### Encoders -/

/-- 42_codecs.md R150 for the three encode commands: each refusal in its place in the order, with nothing but
`STATUS` changed. -/
def Obligations.EncodeRefusesInOrder : Prop :=
  ∀ (i : Instr) (s : State), i ∈ encCommands →
    (area s = 0 → exec i s = .next (s.reporting (some .noImage))) ∧
    (0 < area s → s.pixBytes < 4 * area s → exec i s = .next (s.reporting (some .imageTooLarge))) ∧
    (s.HasImage → s.payLen.toNat = 0 → exec i s = .next (s.reporting (some .emptyMessage))) ∧
    (s.HasImage → 0 < s.payLen.toNat → s.ctrl.cipherEn = true → s.keyLen.toNat = 0 →
      exec i s = .next (s.reporting (some .missingPassword))) ∧
    (s.HasImage → 0 < s.payLen.toNat → s.ctrl.cipherEn = true → 256 < s.keyLen.toNat →
      exec i s = .next (s.reporting (some .keyTooLong))) ∧
    (s.HasImage → 0 < s.payLen.toNat → s.KeyUsable → (3 * area s / 8 : Nat) - 32 < (s.payLen.toNat : Int) →
      exec i s = .next (s.reporting (some .overCapacity))) ∧
    (s.HasImage → 0 < s.payLen.toNat → s.KeyUsable → (s.payLen.toNat : Int) ≤ (3 * area s / 8 : Nat) - 32 →
      10000 < s.payLen.toNat → exec i s = .next (s.reporting (some .overPayloadMax)))

/-- 42_codecs.md R144, R151: `ENC.lsb` on operands that pass the checks. The samples stored to are `off j` for
`j < 32 + 8n`. -/
def Obligations.EncLsbWritesOneBitPerSample : Prop :=
  ∀ s : State, s.EncReady → ∃ t, exec .encLsb s = .next t ∧
    (∀ j < 32 + 8 * s.payLen.toNat,
      (memRead t.pix (off j)).toNat = (memRead s.pix (off j)).toNat / 2 * 2 + framedBit s j) ∧
    (∀ a, (∀ j < 32 + 8 * s.payLen.toNat, a ≠ off j) → memRead t.pix a = memRead s.pix a) ∧
    t = { s.reporting none with pix := t.pix }

/-- 42_codecs.md R145, R152: `ENC.lsb2` on operands that pass the checks. The samples stored to are `off k` for
`k < 16 + 4n`. -/
def Obligations.EncLsb2WritesTwoBitsPerSample : Prop :=
  ∀ s : State, s.EncReady → ∃ t, exec .encLsb2 s = .next t ∧
    (∀ k < 16 + 4 * s.payLen.toNat,
      (memRead t.pix (off k)).toNat
        = (memRead s.pix (off k)).toNat / 4 * 4 + (2 * framedBit s (2 * k) + framedBit s (2 * k + 1))) ∧
    (∀ a, (∀ k < 16 + 4 * s.payLen.toNat, a ≠ off k) → memRead t.pix a = memRead s.pix a) ∧
    t = { s.reporting none with pix := t.pix }

/-- 42_codecs.md R146, R153: `ENC.random` on operands that pass the checks never runs short of positions (R161). The
samples stored to are the positions of `GenPos(W, H, 8n + 32)`. -/
def Obligations.EncRandomWritesAtThePositions : Prop :=
  ∀ s : State, s.EncReady → ∃ t P, exec .encRandom s = .next t ∧
    P = genPos s.width.toNat s.height.toNat (8 * s.payLen.toNat + 32) ∧ P.length = 8 * s.payLen.toNat + 32 ∧
    (∀ j < 32 + 8 * s.payLen.toNat,
      (memRead t.pix (P.getD j 0)).toNat = (memRead s.pix (P.getD j 0)).toNat / 2 * 2 + framedBit s j) ∧
    (∀ a, a ∉ P → memRead t.pix a = memRead s.pix a) ∧ holdsPositions s t P ∧
    t = { s.reporting none with pix := t.pix, pos := t.pos, posCnt := t.posCnt }

/-! ### Decoders -/

/-- 42_codecs.md R154 to R157: the refusals of `DecChecks` in their order (nothing but `STATUS` changes), for all four
decode commands. -/
def Obligations.DecodeRefusesInOrder : Prop :=
  ∀ (i : Instr) (s : State), i ∈ decCommands →
    (area s = 0 → exec i s = .next (s.reporting (some .noImage))) ∧
    (0 < area s → s.pixBytes < 4 * area s → exec i s = .next (s.reporting (some .imageTooLarge))) ∧
    (s.HasImage → s.ctrl.cipherEn = true → s.keyLen.toNat = 0 →
      exec i s = .next (s.reporting (some .missingPassword))) ∧
    (s.HasImage → s.ctrl.cipherEn = true → 256 < s.keyLen.toNat →
      exec i s = .next (s.reporting (some .keyTooLong)))

/-- 42_codecs.md R154 to R157 and 40_framer.md R102, R103: the errors of a decoder of an explicit scheme in their
order, each with `PAYLEN` <- 0 and `PAY` untouched. -/
def Obligations.DecodeFailsInOrder : Prop :=
  ∀ (i : Instr) (s : State), i ∈ schemeDecCommands → s.DecReady →
    ∀ e, (available i s < 32 ∧ e = CmdError.prefixExhausted) ∨
      (32 ≤ available i s ∧ decodedPrefix i s = 0 ∧ e = .lengthZero) ∨
      (32 ≤ available i s ∧ 10000 < decodedPrefix i s ∧ e = .lengthOverMax) ∨
      (32 ≤ available i s ∧ 0 < decodedPrefix i s ∧ decodedPrefix i s ≤ 10000 ∧
        available i s < 32 + 8 * decodedPrefix i s ∧ e = .payloadExhausted) →
    ∃ t, exec i s = .next t ∧
      t = { s with status := s.status.reported (some e), payLen := 0#16, pos := t.pos, posCnt := t.posCnt } ∧
      (i ≠ .decRandom → t.pos = s.pos ∧ t.posCnt = s.posCnt) ∧
      (i = .decRandom → holdsPositions s t (decPositions s))

/-- 42_codecs.md R154 to R157: a decode of an explicit scheme delivers a valid frame, unmasked when the cipher is on. -/
def Obligations.DecodeDeliversAValidFrame : Prop :=
  ∀ (i : Instr) (s : State), i ∈ schemeDecCommands → s.DecReady → 0 < decodedPrefix i s → decodedPrefix i s ≤ 10000 →
    32 + 8 * decodedPrefix i s ≤ available i s →
    ∃ t, exec i s = .next t ∧ t.payLen.toNat = decodedPrefix i s ∧
      (∀ k < decodedPrefix i s, memRead t.pay k = BitVec.ofNat 8 (decodedChar i s k) ^^^
        (if s.ctrl.cipherEn then memRead s.key (k % s.keyLen.toNat) else 0#8)) ∧
      (∀ k, decodedPrefix i s ≤ k → memRead t.pay k = memRead s.pay k) ∧
      t = { s with status := { s.status.reported none with schemeUsed := schemeOf i }, pay := t.pay, payLen := t.payLen,
                   pos := t.pos, posCnt := t.posCnt } ∧
      (i ≠ .decRandom → t.pos = s.pos ∧ t.posCnt = s.posCnt) ∧
      (i = .decRandom → holdsPositions s t (decPositions s))

/-- 42_codecs.md R159, the fallback chain: `DEC.auto` ends as the first of `DEC.lsb` and `DEC.lsb2` whose result is
there and plausible, or else as `DEC.random` without the filter, or else with `AUTO_EXHAUSTED`. A trial's result is
the valid message its bits hold, before unmasking; `plausible` is the filter of R158. -/
def Obligations.AutoFollowsTheFallbackChain : Prop :=
  ∀ s : State, s.DecReady →
    (∀ B, (decodeSeq1 s = .ok B ↔ holdsMessage .decLsb s B) ∧ (decodeSeq2 s = .ok B ↔ holdsMessage .decLsb2 s B) ∧
      (decodeRand s = .ok B ↔ holdsMessage .decRandom s B)) ∧
    (∀ B, plausible B = true ↔ 1 ≤ B.length ∧ B.length ≤ 10000 ∧ 5 * (B.countP fun b =>
      (32 ≤ b.toNat && b.toNat ≤ 126) || b.toNat = 10 || b.toNat = 13) ≥ 4 * B.length) ∧
    (∀ B, decodeSeq1 s = .ok B → plausible B = true → exec .decAuto s = exec .decLsb s) ∧
    ((∀ B, decodeSeq1 s = .ok B → plausible B = false) → ∀ B, decodeSeq2 s = .ok B → plausible B = true →
      exec .decAuto s = exec .decLsb2 s) ∧
    ((∀ B, decodeSeq1 s = .ok B → plausible B = false) → (∀ B, decodeSeq2 s = .ok B → plausible B = false) →
      (∀ B, decodeRand s = .ok B → exec .decAuto s = exec .decRandom s) ∧
      (∀ e, decodeRand s = .error e → ∃ t, exec .decAuto s = .next t ∧ holdsPositions s t (decPositions s) ∧
        t = { s with status := s.status.reported (some .autoExhausted), payLen := 0#16, pos := t.pos, posCnt := t.posCnt }))

/-- 42_codecs.md R159: `DEC.auto` completes by its own effect when the first trial reads a valid frame whose bytes are
at least 80 percent printable. -/
def Obligations.AutoDeliversAPlausibleSequentialMessage : Prop :=
  ∀ s : State, s.DecReady → 0 < decodedPrefix .decLsb s → decodedPrefix .decLsb s ≤ 10000 →
    32 + 8 * decodedPrefix .decLsb s ≤ available .decLsb s →
    4 * decodedPrefix .decLsb s ≤ 5 * ((List.range (decodedPrefix .decLsb s)).countP fun k =>
      (32 ≤ decodedChar .decLsb s k && decodedChar .decLsb s k ≤ 126) || decodedChar .decLsb s k = 10 ||
        decodedChar .decLsb s k = 13) →
    ∃ t, exec .decAuto s = .next t ∧ t.payLen.toNat = decodedPrefix .decLsb s ∧
      (∀ k < decodedPrefix .decLsb s, memRead t.pay k = BitVec.ofNat 8 (decodedChar .decLsb s k) ^^^
        (if s.ctrl.cipherEn then memRead s.key (k % s.keyLen.toNat) else 0#8)) ∧
      (∀ k, decodedPrefix .decLsb s ≤ k → memRead t.pay k = memRead s.pay k) ∧
      t = { s with status := { s.status.reported none with schemeUsed := .lsb }, pay := t.pay, payLen := t.payLen }

/-! ### Round trips -/

/-- 42_codecs.md R162 for `lsb` and `lsb2`: whatever happens between the two commands, if the decode finds the image
registers, the cipher set-up and `PIX` as the encode left them, it returns the message. -/
def Obligations.SequentialRoundTrip : Prop :=
  ∀ (i d : Instr) (s t t' : State), (i, d) ∈ [(Instr.encLsb, Instr.decLsb), (.encLsb2, .decLsb2)] → s.EncReady →
    exec i s = .next t → t'.pix = t.pix → t'.width = s.width → t'.height = s.height → t'.pixSize = s.pixSize →
    t'.ctrl.cipherEn = s.ctrl.cipherEn → t'.keyLen = s.keyLen → (∀ k < 256, memRead t'.key k = memRead s.key k) →
    ∃ u, exec d t' = .next u ∧ u.status.error = none ∧ u.payLen = s.payLen ∧
      ∀ k < s.payLen.toNat, memRead u.pay k = memRead s.pay k

/-- 42_codecs.md R162 for `random`: the round trip for messages of at most 121 characters. -/
def Obligations.RandomRoundTrip : Prop :=
  ∀ s t t' : State, s.EncReady → s.payLen.toNat ≤ 121 →
    exec .encRandom s = .next t → t'.pix = t.pix → t'.width = s.width → t'.height = s.height → t'.pixSize = s.pixSize →
    t'.ctrl.cipherEn = s.ctrl.cipherEn → t'.keyLen = s.keyLen → (∀ k < 256, memRead t'.key k = memRead s.key k) →
    ∃ u, exec .decRandom t' = .next u ∧ u.status.error = none ∧ u.payLen = s.payLen ∧
      ∀ k < s.payLen.toNat, memRead u.pay k = memRead s.pay k

/-- 70_reset_and_hazards.md R256: a randomized message of 122 characters or more is encoded and cannot be decoded. -/
def Obligations.LongRandomMessageCannotBeDecoded : Prop :=
  ∀ s : State, s.EncReady → 122 ≤ s.payLen.toNat →
    ∃ t u, exec .encRandom s = .next t ∧ t.status.error = none ∧ exec .decRandom t = .next u ∧
      u.status.error = some .payloadExhausted ∧ u.payLen = 0#16 ∧ ∀ k, memRead u.pay k = memRead s.pay k

/-! ### Analysis -/

/-- 44_analysis.md R190, R191, R193, R195, R196, R197, R199: the refusals in their order, and otherwise the snapshot.
The value of `ENTROPY` is the statement `EntropyIsTheLargestExponent`. -/
def Obligations.AnalyzeRecordsTheSnapshot : Prop :=
  ∀ s : State,
    (area s = 0 → exec .analyze s = .next (s.reporting (some .noImage))) ∧
    (0 < area s → s.pixBytes < 4 * area s → exec .analyze s = .next (s.reporting (some .imageTooLarge))) ∧
    (s.HasImage → ∃ t, exec .analyze s = .next t ∧
      (∀ v < 256, (memRead t.hist v).toNat = sampleCount s v) ∧
      (∀ v, 256 ≤ v → memRead t.hist v = memRead s.hist v) ∧
      t.total.toNat = 3 * area s ∧ t.lsbOnes.toNat = oddCount s ∧
      t.entropy = BitVec.ofNat 20 (entropyQ16 (3 * area s) ((List.range 256).map (sampleCount s))) ∧
      t.lsbBias.toNat = biasOf s * 65536 / (3 * area s) ∧
      t.chiSq.toNat = min 6553600 (6553600 * biasOf s / (3 * area s) + 50 * drawAt s 0) ∧
      t.prob.toNat = min 6225920
        (((if 50 * biasOf s > 3 * area s then 30 else 0) +
          (if entropyQ16 (3 * area s) ((List.range 256).map (sampleCount s)) < 491520 then 20 else 0) +
          (if 6553600 * biasOf s + 50 * drawAt s 0 * (3 * area s) > 3276800 * (3 * area s) then 30 else 0)) * 65536 +
          20 * drawAt s 1) ∧
      (∃ v < 256, t.histMax.toNat = sampleCount s v) ∧ (∀ v < 256, sampleCount s v ≤ t.histMax.toNat) ∧
      t.rndCnt = s.rndCnt + 2#32 ∧ t.drawn = s.drawn + 2 ∧ t.drawScript = s.drawScript.drop 2 ∧
      t = { s with status := s.status.reported none, hist := t.hist, total := t.total, lsbOnes := t.lsbOnes,
                   entropy := t.entropy, lsbBias := t.lsbBias, chiSq := t.chiSq, prob := t.prob, histMax := t.histMax,
                   rndCnt := t.rndCnt, drawn := t.drawn, drawScript := t.drawScript })

/-- 44_analysis.md R192, the integer definition: the stored entropy is the largest `q` with
`2^(q*T) * (product of h[v]^h[v])^65536 <= (T^T)^65536`, for the histogram of any samples, and it fits its register. -/
def Obligations.EntropyIsTheLargestExponent : Prop :=
  ∀ samples : List Byte, samples ≠ [] →
    ∀ T h q, T = samples.length → h = (List.range 256).map (fun v => samples.count (BitVec.ofNat 8 v)) →
      q = entropyQ16 T h →
      2 ^ (q * T) * ((h.map fun k => k ^ k).prod) ^ 65536 ≤ (T ^ T) ^ 65536 ∧
      (∀ q', 2 ^ (q' * T) * ((h.map fun k => k ^ k).prod) ^ 65536 ≤ (T ^ T) ^ 65536 → q' ≤ q) ∧
      q ≤ 524288

/-- 44_analysis.md R192, the real definition: the stored entropy is `floor(Hent * 65536)` for the Shannon entropy
`Hent = - sum of p_v * log2(p_v)` of the histogram (a value that does not occur contributes 0). -/
def Obligations.EntropyIsTheFloorOfShannonEntropy : Prop :=
  ∀ samples : List Byte, samples ≠ [] →
    ((entropyQ16 samples.length (histogram samples) : Nat) : Int) =
      ⌊(-∑ v ∈ Finset.range 256, ((samples.count (BitVec.ofNat 8 v) : ℝ) / samples.length) *
        Real.logb 2 ((samples.count (BitVec.ofNat 8 v) : ℝ) / samples.length)) * 65536⌋

/-- 44_analysis.md R201: the ranges of the snapshot of every successful `ANALYZE`. -/
def Obligations.AnalyzeResultsStayInRange : Prop :=
  ∀ s : State, s.HasImage → ∃ t, exec .analyze s = .next t ∧ t.status.error = none ∧
    t.entropy.toNat ≤ 524288 ∧ t.lsbBias.toNat ≤ 65536 ∧ t.chiSq.toNat ≤ 6553600 ∧ t.prob.toNat ≤ 6225920 ∧
    3 ≤ t.total.toNat ∧ t.lsbOnes.toNat ≤ t.total.toNat ∧ 1 ≤ t.histMax.toNat ∧ t.histMax.toNat ≤ t.total.toNat ∧
    ((List.range 256).map fun v => (memRead t.hist v).toNat).sum = t.total.toNat

/-- 44_analysis.md R200: what is reproducible. Two runs on images with the same RGB samples and size agree on every
deterministic result, on `CHISQ` when their first draws agree and on `PROB` when both draws agree. -/
def Obligations.AnalyzeIsReproducible : Prop :=
  ∀ s s' t t' : State, s.HasImage → s'.HasImage → s'.width = s.width → s'.height = s.height →
    (∀ a, a % 4 ≠ 3 → a < 4 * area s → memRead s'.pix a = memRead s.pix a) →
    exec .analyze s = .next t → exec .analyze s' = .next t' →
    (∀ v < 256, memRead t'.hist v = memRead t.hist v) ∧ t'.total = t.total ∧ t'.lsbOnes = t.lsbOnes ∧
    t'.entropy = t.entropy ∧ t'.lsbBias = t.lsbBias ∧ t'.histMax = t.histMax ∧
    (drawAt s' 0 = drawAt s 0 → t'.chiSq = t.chiSq) ∧
    (drawAt s' 0 = drawAt s 0 → drawAt s' 1 = drawAt s 1 → t'.prob = t.prob)

/-! ### Noise -/

/-- 45_noise_system.md R210: the refusals in their order, and otherwise the effect of the draws on each pixel. -/
def Obligations.NoiseNudgesTheSelectedPixels : Prop :=
  ∀ s : State,
    (area s = 0 → exec .noise s = .next (s.reporting (some .noImage))) ∧
    (0 < area s → s.pixBytes < 4 * area s → exec .noise s = .next (s.reporting (some .imageTooLarge))) ∧
    (s.HasImage → ∃ t, exec .noise s = .next t ∧
      (∀ p < area s, ∀ c < 3, ((memRead t.pix (4 * p + c)).toNat : Int) =
        if 10 * drawAt s (drawsBefore s p) < 65536 then
          min 255 (max 0 (((memRead s.pix (4 * p + c)).toNat : Int) +
            (if drawAt s (drawsBefore s p + 1) < 32768 then -1 else 1)))
        else ((memRead s.pix (4 * p + c)).toNat : Int)) ∧
      (∀ a, a % 4 = 3 ∨ 4 * area s ≤ a → memRead t.pix a = memRead s.pix a) ∧
      t.rndCnt = s.rndCnt + BitVec.ofNat 32 (drawsBefore s (area s)) ∧
      t.drawn = s.drawn + drawsBefore s (area s) ∧ t.drawScript = s.drawScript.drop (drawsBefore s (area s)) ∧
      t = { s with status := s.status.reported none, pix := t.pix, rndCnt := t.rndCnt, drawn := t.drawn,
                   drawScript := t.drawScript })

/-- 45_noise_system.md R210, R213: the clamped sum of a sample and a sign, and that a change by 1 inverts bit 0 of a sample unless the clamp held it. -/
def Obligations.NoiseInvertsBitZeroUnlessClamped : Prop :=
  ∀ (x : Byte) (d : Int), d = -1 ∨ d = 1 →
    ((clampAdd x d).toNat : Int) = min 255 (max 0 ((x.toNat : Int) + d)) ∧
    (clampAdd x d).getLsbD 0 = if (d = -1 ∧ x = 0#8) ∨ (d = 1 ∧ x = 255#8) then x.getLsbD 0 else !x.getLsbD 0
end

