-- ==== Sys2Proof/Laws/Framer.lean ====
section
/-! SUPPORT. The laws of the framer's bit assembly (40_framer.md). -/

namespace Sys2Proof.Machine

@[simp] theorem readBits_zero (get : Nat → Bool) (start : Nat) : readBits get start 0 = 0 := rfl

/-- One more bit: the value doubles and the new bit is the least significant. -/
theorem readBits_succ (get : Nat → Bool) (start len : Nat) :
    readBits get start (len + 1) = 2 * readBits get start len + (get (start + len)).toNat := by
  simp [readBits, List.range_succ, List.foldl_append]

theorem readBits_lt (get : Nat → Bool) (start len : Nat) : readBits get start len < 2 ^ len := by
  induction len with
  | zero => simp
  | succ len ih =>
    rw [readBits_succ, Nat.pow_succ]
    have : (get (start + len)).toNat ≤ 1 := Bool.toNat_le _
    omega

/-- Streams that agree on the bits read give the same value. -/
theorem readBits_congr {get get' : Nat → Bool} {start len : Nat} (h : ∀ j < len, get (start + j) = get' (start + j)) :
    readBits get start len = readBits get' start len := by
  induction len with
  | zero => rfl
  | succ len ih => rw [readBits_succ, readBits_succ, ih fun j hj => h j (by omega), h len (by omega)]

/-- Reading back the bits of a number, most significant first, gives the number. -/
theorem readBits_of_testBit {get : Nat → Bool} {start len n : Nat}
    (h : ∀ j < len, get (start + j) = n.testBit (len - 1 - j)) : readBits get start len = n % 2 ^ len := by
  induction len generalizing n with
  | zero => simp [Nat.mod_one]
  | succ len ih =>
    have hhi : readBits get start len = n / 2 % 2 ^ len := by
      apply ih
      intro j hj
      rw [h j (by omega), Nat.testBit_div_two]
      congr 1
      omega
    have hlo : (get (start + len)).toNat = n % 2 := by
      rw [h len (by omega), show len + 1 - 1 - len = 0 by omega, Nat.testBit_zero]
      rcases Nat.mod_two_eq_zero_or_one n with h | h <;> simp [h]
    rw [readBits_succ, hhi, hlo, Nat.pow_succ, Nat.mul_comm (2 ^ len) 2, Nat.mod_mul]
    omega

theorem readPrefix_lt (get : Nat → Bool) : readPrefix get < 4294967296 := readBits_lt get 0 32

/-- Everything `Unframe` can do: one of its four errors in their order, or exactly the characters of the prefix. -/
theorem unframe_cases (get : Nat → Bool) (avail : Nat) :
    (avail < 32 ∧ unframe get avail = .error .prefixExhausted) ∨
    (32 ≤ avail ∧ readPrefix get = 0 ∧ unframe get avail = .error .lengthZero) ∨
    (32 ≤ avail ∧ 10000 < readPrefix get ∧ unframe get avail = .error .lengthOverMax) ∨
    (0 < readPrefix get ∧ readPrefix get ≤ 10000 ∧ 32 ≤ avail ∧ avail < 32 + 8 * readPrefix get ∧
      unframe get avail = .error .payloadExhausted) ∨
    (0 < readPrefix get ∧ readPrefix get ≤ 10000 ∧ 32 + 8 * readPrefix get ≤ avail ∧
      unframe get avail = .ok ((List.range (readPrefix get)).map (readChar get))) := by
  unfold unframe unframeTests
  simp only [firstFailing, Config.prefixBits, Config.payMax, frameLen, decide_eq_true_eq]
  by_cases h1 : avail < 32
  · simp [h1]
  by_cases h2 : readPrefix get = 0
  · simp [h1, h2]; omega
  by_cases h3 : readPrefix get > 10000
  · simp [h1, h2, h3]; omega
  by_cases h4 : 32 + 8 * readPrefix get > avail
  · simp [h1, h2, h3, h4]; omega
  · simp [h1, h2, h3, h4]; omega

end Sys2Proof.Machine
end

