-- ==== Sys2Proof/Laws/Memory.lean ====
section
/-! SUPPORT. The laws of the memory operations: a read after a write, the canonical form, blocks and loops of
writes. They hold of every list, canonical or not, unless a law says otherwise. -/

namespace Sys2Proof.Machine

variable {w : Nat}

@[simp] theorem memRead_nil (i : Nat) : memRead ([] : Memory w) i = 0#w := rfl

theorem memRead_cons (j : Nat) (v : BitVec w) (rest : Memory w) (i : Nat) :
    memRead ((j, v) :: rest) i = if j = i then v else memRead rest i := rfl

theorem memRead_filter_self (m : Memory w) (i : Nat) : memRead (m.filter fun c => c.1 ≠ i) i = 0#w := by
  induction m with
  | nil => rfl
  | cons c rest ih =>
    obtain ⟨j, v⟩ := c
    by_cases h : j = i
    · simpa [h] using ih
    · simpa [h, memRead_cons] using ih

theorem memRead_filter_of_ne (m : Memory w) {i k : Nat} (hk : k ≠ i) :
    memRead (m.filter fun c => c.1 ≠ i) k = memRead m k := by
  induction m with
  | nil => rfl
  | cons c rest ih =>
    obtain ⟨j, v⟩ := c
    by_cases h : j = i
    · have hj : j ≠ k := fun e => hk (e ▸ h)
      rw [List.filter_cons_of_neg (by simp [h]), ih, memRead_cons, if_neg hj]
    · rw [List.filter_cons_of_pos (by simp [h]), memRead_cons, memRead_cons, ih]

theorem memRead_memInsert_of_ne (m : Memory w) (v : BitVec w) {i k : Nat} (hk : k ≠ i) :
    memRead (memInsert i v m) k = memRead m k := by
  induction m with
  | nil => simp [memInsert, memRead_cons, Ne.symm hk]
  | cons c rest ih =>
    obtain ⟨j, u⟩ := c
    unfold memInsert
    split
    · simp [memRead_cons, Ne.symm hk]
    · simp only [memRead_cons, ih]

theorem memRead_memInsert_self (m : Memory w) (v : BitVec w) (i : Nat) (h : ∀ c ∈ m, c.1 ≠ i) :
    memRead (memInsert i v m) i = v := by
  induction m with
  | nil => simp [memInsert, memRead_cons]
  | cons c rest ih =>
    obtain ⟨j, u⟩ := c
    have hj : j ≠ i := h (j, u) (by simp)
    have hr : ∀ c ∈ rest, c.1 ≠ i := fun c hc => h c (by simp [hc])
    unfold memInsert
    split
    · simp [memRead_cons]
    · simp only [memRead_cons, hj, if_false, ih hr]

/-- A read after a write to the same element gives the value written. -/
@[simp] theorem memRead_memWrite_self (m : Memory w) (i : Nat) (v : BitVec w) : memRead (memWrite m i v) i = v := by
  unfold memWrite
  split
  next h => rw [h]; exact memRead_filter_self m i
  · exact memRead_memInsert_self _ _ _ (by simp)

/-- A write leaves every other element alone. -/
theorem memRead_memWrite_of_ne (m : Memory w) (v : BitVec w) {i k : Nat} (hk : k ≠ i) :
    memRead (memWrite m i v) k = memRead m k := by
  unfold memWrite
  split
  · exact memRead_filter_of_ne m hk
  · rw [memRead_memInsert_of_ne _ _ hk, memRead_filter_of_ne m hk]

theorem memRead_memWrite (m : Memory w) (i : Nat) (v : BitVec w) (k : Nat) :
    memRead (memWrite m i v) k = if k = i then v else memRead m k := by
  split
  next h => rw [h, memRead_memWrite_self]
  next h => exact memRead_memWrite_of_ne m v h

/-! ### The canonical form -/

theorem wf_nil (size : Nat) : Memory.wf size ([] : Memory w) := ⟨List.Pairwise.nil, fun _ h => nomatch h⟩

theorem mem_memInsert {i : Nat} {v : BitVec w} {m : Memory w} {c : Nat × BitVec w} :
    c ∈ memInsert i v m ↔ c = (i, v) ∨ c ∈ m := by
  induction m with
  | nil => simp [memInsert]
  | cons d rest ih =>
    unfold memInsert
    split
    · simp
    · simp only [List.mem_cons, ih]; tauto

theorem pairwise_memInsert {i : Nat} {v : BitVec w} {m : Memory w} (hm : m.Pairwise fun a b => a.1 < b.1)
    (hi : ∀ c ∈ m, c.1 ≠ i) : (memInsert i v m).Pairwise fun a b => a.1 < b.1 := by
  induction m with
  | nil => simp [memInsert]
  | cons c rest ih =>
    rw [List.pairwise_cons] at hm
    have hr : ∀ c ∈ rest, c.1 ≠ i := fun d hd => hi d (by simp [hd])
    have hc : c.1 ≠ i := hi c (by simp)
    unfold memInsert
    split
    next hlt =>
      refine List.pairwise_cons.2 ⟨?_, List.pairwise_cons.2 hm⟩
      intro d hd
      rcases List.mem_cons.1 hd with rfl | hd
      · exact hlt
      · exact lt_trans hlt (hm.1 d hd)
    next hge =>
      refine List.pairwise_cons.2 ⟨?_, ih hm.2 hr⟩
      intro d hd
      rcases mem_memInsert.1 hd with rfl | hd
      · show c.1 < i
        omega
      · exact hm.1 d hd

/-- A write inside the space keeps the canonical form. -/
theorem wf_memWrite {size : Nat} {m : Memory w} (hm : Memory.wf size m) {i : Nat} (hi : i < size) (v : BitVec w) :
    Memory.wf size (memWrite m i v) := by
  have hf : Memory.wf size (m.filter fun c => c.1 ≠ i) :=
    ⟨hm.1.filter _, fun c hc => hm.2 c (List.mem_filter.1 hc).1⟩
  unfold memWrite
  split
  · exact hf
  next hv =>
    refine ⟨pairwise_memInsert hf.1 (fun c hc => by simpa using (List.mem_filter.1 hc).2), fun c hc => ?_⟩
    rcases mem_memInsert.1 hc with rfl | hc
    · exact ⟨hi, hv⟩
    · exact hf.2 c hc

theorem memRead_eq_of_mem {m : Memory w} (hm : m.Pairwise fun a b => a.1 < b.1) {c : Nat × BitVec w} (hc : c ∈ m) :
    memRead m c.1 = c.2 := by
  induction m with
  | nil => simp at hc
  | cons d rest ih =>
    obtain ⟨j, u⟩ := d
    rw [List.pairwise_cons] at hm
    rcases List.mem_cons.1 hc with rfl | hc
    · simp [memRead_cons]
    · have : j ≠ c.1 := Nat.ne_of_lt (hm.1 c hc)
      rw [memRead_cons, if_neg this, ih hm.2 hc]

theorem memRead_eq_zero_of_lt {m : Memory w} {i : Nat} (h : ∀ c ∈ m, i < c.1) : memRead m i = 0#w := by
  induction m with
  | nil => rfl
  | cons d rest ih =>
    obtain ⟨j, u⟩ := d
    have : j ≠ i := Nat.ne_of_gt (h (j, u) (by simp))
    rw [memRead_cons, if_neg this]
    exact ih fun c hc => h c (by simp [hc])

/-- Equal memories are equal data: two canonical memories that read alike are the same list. -/
theorem memory_ext {size size' : Nat} {m m' : Memory w} (hm : Memory.wf size m) (hm' : Memory.wf size' m')
    (h : ∀ i, memRead m i = memRead m' i) : m = m' := by
  induction m generalizing m' with
  | nil =>
    cases m' with
    | nil => rfl
    | cons c rest =>
      have hc := (hm'.2 c (by simp)).2
      have := memRead_eq_of_mem hm'.1 (c := c) (by simp)
      rw [← h] at this
      exact absurd this.symm hc
  | cons c rest ih =>
    cases m' with
    | nil =>
      have hc := (hm.2 c (by simp)).2
      have := memRead_eq_of_mem hm.1 (c := c) (by simp)
      rw [h] at this
      exact absurd this.symm hc
    | cons d rest' =>
      have hp := List.pairwise_cons.1 hm.1
      have hp' := List.pairwise_cons.1 hm'.1
      have hc := memRead_eq_of_mem hm.1 (c := c) (by simp)
      have hd := memRead_eq_of_mem hm'.1 (c := d) (by simp)
      have hcd : c.1 = d.1 := by
        rcases lt_trichotomy c.1 d.1 with hlt | heq | hgt
        · have hz : memRead (d :: rest') c.1 = 0#w := memRead_eq_zero_of_lt (by
            intro e he
            rcases List.mem_cons.1 he with rfl | he
            · exact hlt
            · exact lt_trans hlt (hp'.1 e he))
          exact absurd (hc.symm.trans ((h c.1).trans hz)) (hm.2 c (by simp)).2
        · exact heq
        · have hz : memRead (c :: rest) d.1 = 0#w := memRead_eq_zero_of_lt (by
            intro e he
            rcases List.mem_cons.1 he with rfl | he
            · exact hgt
            · exact lt_trans hgt (hp.1 e he))
          exact absurd (hd.symm.trans ((h d.1).symm.trans hz)) (hm'.2 d (by simp)).2
      have hv : c = d := Prod.ext hcd (by rw [← hc, ← hd, h, hcd])
      subst hv
      refine congrArg (c :: ·) (ih ⟨hp.2, fun e he => hm.2 e (by simp [he])⟩ ⟨hp'.2, fun e he => hm'.2 e (by simp [he])⟩ ?_)
      intro i
      have hi := h i
      obtain ⟨j, u⟩ := c
      by_cases hj : j = i
      · have h1 : memRead rest i = 0#w := memRead_eq_zero_of_lt fun e he => hj ▸ hp.1 e he
        have h2 : memRead rest' i = 0#w := memRead_eq_zero_of_lt fun e he => hj ▸ hp'.1 e he
        rw [h1, h2]
      · simpa [memRead_cons, hj] using hi

/-! ### Blocks and loops of writes -/

@[simp] theorem memStore_nil (m : Memory w) (i : Nat) : memStore m i [] = m := rfl

/-- What a block write leaves: the block's elements inside it, every other element as it was. -/
theorem memRead_memStore (vs : List (BitVec w)) (m : Memory w) (i k : Nat) :
    memRead (memStore m i vs) k = if i ≤ k ∧ k < i + vs.length then vs.getD (k - i) 0 else memRead m k := by
  induction vs generalizing m i with
  | nil =>
    have : ¬(i ≤ k ∧ k < i + ([] : List (BitVec w)).length) := by rw [List.length_nil]; omega
    rw [if_neg this]
    rfl
  | cons v vs ih =>
    simp only [memStore, ih, memRead_memWrite, List.length_cons]
    by_cases hk : k = i
    · subst hk
      simp
    · by_cases h : i + 1 ≤ k ∧ k < i + 1 + vs.length
      · have h' : i ≤ k ∧ k < i + (vs.length + 1) := ⟨by omega, by omega⟩
        obtain ⟨d, hd⟩ : ∃ d, k = i + 1 + d := ⟨k - (i + 1), by omega⟩
        have e1 : k - i = d + 1 := by omega
        have e2 : k - (i + 1) = d := by omega
        rw [if_pos h, if_pos h', e1, e2]
        rfl
      · have h' : ¬(i ≤ k ∧ k < i + (vs.length + 1)) := by omega
        rw [if_neg h, if_neg h', if_neg hk]

theorem wf_memStore {size : Nat} (vs : List (BitVec w)) {m : Memory w} (hm : Memory.wf size m) {i : Nat}
    (hi : i + vs.length ≤ size) : Memory.wf size (memStore m i vs) := by
  induction vs generalizing m i with
  | nil => exact hm
  | cons v vs ih =>
    simp only [List.length_cons] at hi
    exact ih (wf_memWrite hm (by omega) v) (by omega)

theorem wf_memOfCells (size : Nat) (cells : List (Nat × BitVec w)) : Memory.wf size (memOfCells size cells) := by
  suffices h : ∀ m : Memory w, Memory.wf size m →
      Memory.wf size (cells.foldl (fun m c => if c.1 < size then memWrite m c.1 c.2 else m) m) from h [] (wf_nil size)
  intro m hm
  induction cells generalizing m with
  | nil => exact hm
  | cons c cs ih =>
    refine ih _ ?_
    by_cases h : c.1 < size
    · simpa only [h, if_true] using wf_memWrite hm h c.2
    · simpa only [h, if_false] using hm

/-- A loop of updates of pairwise distinct elements: each element visited is updated from what it held before the
loop, and every other element is as it was. -/
theorem memRead_loop (pos : Nat → Nat) (f : Nat → BitVec w → BitVec w) (m : Memory w) (L : Nat)
    (hinj : ∀ i < L, ∀ j < L, pos i = pos j → i = j) :
    (∀ j < L, memRead ((List.range L).foldl (fun m j => memWrite m (pos j) (f j (memRead m (pos j)))) m) (pos j)
        = f j (memRead m (pos j))) ∧
    (∀ a, (∀ j < L, a ≠ pos j) →
      memRead ((List.range L).foldl (fun m j => memWrite m (pos j) (f j (memRead m (pos j)))) m) a = memRead m a) := by
  induction L with
  | zero => simp
  | succ L ih =>
    obtain ⟨ih1, ih2⟩ := ih fun i hi j hj => hinj i (by omega) j (by omega)
    have hL : memRead ((List.range L).foldl (fun m j => memWrite m (pos j) (f j (memRead m (pos j)))) m) (pos L)
        = memRead m (pos L) :=
      ih2 _ fun j hj e => absurd (hinj L (by omega) j (by omega) e) (by omega)
    simp only [List.range_succ, List.foldl_append, List.foldl_cons, List.foldl_nil, memRead_memWrite]
    refine ⟨fun j hj => ?_, fun a ha => ?_⟩
    · by_cases hjL : j = L
      · subst hjL
        rw [if_pos rfl, hL]
      · have : pos j ≠ pos L := fun e => hjL (hinj j hj L (by omega) e)
        rw [if_neg this, ih1 j (by omega)]
    · rw [if_neg (ha L (by omega)), ih2 a fun j hj => ha j (by omega)]

theorem wf_loop {size : Nat} (pos : Nat → Nat) (f : Nat → BitVec w → BitVec w) {m : Memory w} (hm : Memory.wf size m)
    (L : Nat) (hpos : ∀ j < L, pos j < size) :
    Memory.wf size ((List.range L).foldl (fun m j => memWrite m (pos j) (f j (memRead m (pos j)))) m) := by
  induction L with
  | zero => exact hm
  | succ L ih =>
    simp only [List.range_succ, List.foldl_append, List.foldl_cons, List.foldl_nil]
    exact wf_memWrite (ih fun j hj => hpos j (by omega)) (hpos L (by omega)) _

end Sys2Proof.Machine
end

