-- ==== Sys2Proof/Laws/State.lean ====
section
/-! SUPPORT. One lemma per field per named update of State, each true by rfl: no later proof unfolds a record
update. -/

namespace Sys2Proof.Machine

/-! ### `State.accept` -/

@[simp] theorem State.accept_status (s : State) : s.accept.status = { s.status with busy := true, done := false, error := none } := rfl
@[simp] theorem State.accept_ctrl (s : State) : s.accept.ctrl = s.ctrl := rfl
@[simp] theorem State.accept_width (s : State) : s.accept.width = s.width := rfl
@[simp] theorem State.accept_height (s : State) : s.accept.height = s.height := rfl
@[simp] theorem State.accept_payLen (s : State) : s.accept.payLen = s.payLen := rfl
@[simp] theorem State.accept_keyLen (s : State) : s.accept.keyLen = s.keyLen := rfl
@[simp] theorem State.accept_posCnt (s : State) : s.accept.posCnt = s.posCnt := rfl
@[simp] theorem State.accept_capacity (s : State) : s.accept.capacity = s.capacity := rfl
@[simp] theorem State.accept_total (s : State) : s.accept.total = s.total := rfl
@[simp] theorem State.accept_lsbOnes (s : State) : s.accept.lsbOnes = s.lsbOnes := rfl
@[simp] theorem State.accept_entropy (s : State) : s.accept.entropy = s.entropy := rfl
@[simp] theorem State.accept_lsbBias (s : State) : s.accept.lsbBias = s.lsbBias := rfl
@[simp] theorem State.accept_chiSq (s : State) : s.accept.chiSq = s.chiSq := rfl
@[simp] theorem State.accept_prob (s : State) : s.accept.prob = s.prob := rfl
@[simp] theorem State.accept_histMax (s : State) : s.accept.histMax = s.histMax := rfl
@[simp] theorem State.accept_rndCnt (s : State) : s.accept.rndCnt = s.rndCnt := rfl
@[simp] theorem State.accept_pix (s : State) : s.accept.pix = s.pix := rfl
@[simp] theorem State.accept_pay (s : State) : s.accept.pay = s.pay := rfl
@[simp] theorem State.accept_key (s : State) : s.accept.key = s.key := rfl
@[simp] theorem State.accept_pos (s : State) : s.accept.pos = s.pos := rfl
@[simp] theorem State.accept_hist (s : State) : s.accept.hist = s.hist := rfl
@[simp] theorem State.accept_pixSize (s : State) : s.accept.pixSize = s.pixSize := rfl
@[simp] theorem State.accept_drawScript (s : State) : s.accept.drawScript = s.drawScript := rfl
@[simp] theorem State.accept_drawn (s : State) : s.accept.drawn = s.drawn := rfl
@[simp] theorem State.accept_host (s : State) : s.accept.host = s.host := rfl
@[simp] theorem State.accept_lastRead (s : State) : s.accept.lastRead = s.lastRead := rfl
@[simp] theorem State.accept_freeReads (s : State) : s.accept.freeReads = s.freeReads := rfl

/-! ### `State.complete` -/

@[simp] theorem State.complete_status (s : State) : s.complete.status = { s.status with busy := false, done := true } := rfl
@[simp] theorem State.complete_ctrl (s : State) : s.complete.ctrl = s.ctrl := rfl
@[simp] theorem State.complete_width (s : State) : s.complete.width = s.width := rfl
@[simp] theorem State.complete_height (s : State) : s.complete.height = s.height := rfl
@[simp] theorem State.complete_payLen (s : State) : s.complete.payLen = s.payLen := rfl
@[simp] theorem State.complete_keyLen (s : State) : s.complete.keyLen = s.keyLen := rfl
@[simp] theorem State.complete_posCnt (s : State) : s.complete.posCnt = s.posCnt := rfl
@[simp] theorem State.complete_capacity (s : State) : s.complete.capacity = s.capacity := rfl
@[simp] theorem State.complete_total (s : State) : s.complete.total = s.total := rfl
@[simp] theorem State.complete_lsbOnes (s : State) : s.complete.lsbOnes = s.lsbOnes := rfl
@[simp] theorem State.complete_entropy (s : State) : s.complete.entropy = s.entropy := rfl
@[simp] theorem State.complete_lsbBias (s : State) : s.complete.lsbBias = s.lsbBias := rfl
@[simp] theorem State.complete_chiSq (s : State) : s.complete.chiSq = s.chiSq := rfl
@[simp] theorem State.complete_prob (s : State) : s.complete.prob = s.prob := rfl
@[simp] theorem State.complete_histMax (s : State) : s.complete.histMax = s.histMax := rfl
@[simp] theorem State.complete_rndCnt (s : State) : s.complete.rndCnt = s.rndCnt := rfl
@[simp] theorem State.complete_pix (s : State) : s.complete.pix = s.pix := rfl
@[simp] theorem State.complete_pay (s : State) : s.complete.pay = s.pay := rfl
@[simp] theorem State.complete_key (s : State) : s.complete.key = s.key := rfl
@[simp] theorem State.complete_pos (s : State) : s.complete.pos = s.pos := rfl
@[simp] theorem State.complete_hist (s : State) : s.complete.hist = s.hist := rfl
@[simp] theorem State.complete_pixSize (s : State) : s.complete.pixSize = s.pixSize := rfl
@[simp] theorem State.complete_drawScript (s : State) : s.complete.drawScript = s.drawScript := rfl
@[simp] theorem State.complete_drawn (s : State) : s.complete.drawn = s.drawn := rfl
@[simp] theorem State.complete_host (s : State) : s.complete.host = s.host := rfl
@[simp] theorem State.complete_lastRead (s : State) : s.complete.lastRead = s.lastRead := rfl
@[simp] theorem State.complete_freeReads (s : State) : s.complete.freeReads = s.freeReads := rfl

/-! ### `State.raise` -/

@[simp] theorem State.raise_status (s : State) (e : CmdError) : (s.raise e).status = { s.status with busy := false, done := true, error := some e } := rfl
@[simp] theorem State.raise_ctrl (s : State) (e : CmdError) : (s.raise e).ctrl = s.ctrl := rfl
@[simp] theorem State.raise_width (s : State) (e : CmdError) : (s.raise e).width = s.width := rfl
@[simp] theorem State.raise_height (s : State) (e : CmdError) : (s.raise e).height = s.height := rfl
@[simp] theorem State.raise_payLen (s : State) (e : CmdError) : (s.raise e).payLen = s.payLen := rfl
@[simp] theorem State.raise_keyLen (s : State) (e : CmdError) : (s.raise e).keyLen = s.keyLen := rfl
@[simp] theorem State.raise_posCnt (s : State) (e : CmdError) : (s.raise e).posCnt = s.posCnt := rfl
@[simp] theorem State.raise_capacity (s : State) (e : CmdError) : (s.raise e).capacity = s.capacity := rfl
@[simp] theorem State.raise_total (s : State) (e : CmdError) : (s.raise e).total = s.total := rfl
@[simp] theorem State.raise_lsbOnes (s : State) (e : CmdError) : (s.raise e).lsbOnes = s.lsbOnes := rfl
@[simp] theorem State.raise_entropy (s : State) (e : CmdError) : (s.raise e).entropy = s.entropy := rfl
@[simp] theorem State.raise_lsbBias (s : State) (e : CmdError) : (s.raise e).lsbBias = s.lsbBias := rfl
@[simp] theorem State.raise_chiSq (s : State) (e : CmdError) : (s.raise e).chiSq = s.chiSq := rfl
@[simp] theorem State.raise_prob (s : State) (e : CmdError) : (s.raise e).prob = s.prob := rfl
@[simp] theorem State.raise_histMax (s : State) (e : CmdError) : (s.raise e).histMax = s.histMax := rfl
@[simp] theorem State.raise_rndCnt (s : State) (e : CmdError) : (s.raise e).rndCnt = s.rndCnt := rfl
@[simp] theorem State.raise_pix (s : State) (e : CmdError) : (s.raise e).pix = s.pix := rfl
@[simp] theorem State.raise_pay (s : State) (e : CmdError) : (s.raise e).pay = s.pay := rfl
@[simp] theorem State.raise_key (s : State) (e : CmdError) : (s.raise e).key = s.key := rfl
@[simp] theorem State.raise_pos (s : State) (e : CmdError) : (s.raise e).pos = s.pos := rfl
@[simp] theorem State.raise_hist (s : State) (e : CmdError) : (s.raise e).hist = s.hist := rfl
@[simp] theorem State.raise_pixSize (s : State) (e : CmdError) : (s.raise e).pixSize = s.pixSize := rfl
@[simp] theorem State.raise_drawScript (s : State) (e : CmdError) : (s.raise e).drawScript = s.drawScript := rfl
@[simp] theorem State.raise_drawn (s : State) (e : CmdError) : (s.raise e).drawn = s.drawn := rfl
@[simp] theorem State.raise_host (s : State) (e : CmdError) : (s.raise e).host = s.host := rfl
@[simp] theorem State.raise_lastRead (s : State) (e : CmdError) : (s.raise e).lastRead = s.lastRead := rfl
@[simp] theorem State.raise_freeReads (s : State) (e : CmdError) : (s.raise e).freeReads = s.freeReads := rfl

/-! ### `State.clearReport` -/

@[simp] theorem State.clearReport_status (s : State) : s.clearReport.status = { s.status with done := false, error := none } := rfl
@[simp] theorem State.clearReport_ctrl (s : State) : s.clearReport.ctrl = s.ctrl := rfl
@[simp] theorem State.clearReport_width (s : State) : s.clearReport.width = s.width := rfl
@[simp] theorem State.clearReport_height (s : State) : s.clearReport.height = s.height := rfl
@[simp] theorem State.clearReport_payLen (s : State) : s.clearReport.payLen = s.payLen := rfl
@[simp] theorem State.clearReport_keyLen (s : State) : s.clearReport.keyLen = s.keyLen := rfl
@[simp] theorem State.clearReport_posCnt (s : State) : s.clearReport.posCnt = s.posCnt := rfl
@[simp] theorem State.clearReport_capacity (s : State) : s.clearReport.capacity = s.capacity := rfl
@[simp] theorem State.clearReport_total (s : State) : s.clearReport.total = s.total := rfl
@[simp] theorem State.clearReport_lsbOnes (s : State) : s.clearReport.lsbOnes = s.lsbOnes := rfl
@[simp] theorem State.clearReport_entropy (s : State) : s.clearReport.entropy = s.entropy := rfl
@[simp] theorem State.clearReport_lsbBias (s : State) : s.clearReport.lsbBias = s.lsbBias := rfl
@[simp] theorem State.clearReport_chiSq (s : State) : s.clearReport.chiSq = s.chiSq := rfl
@[simp] theorem State.clearReport_prob (s : State) : s.clearReport.prob = s.prob := rfl
@[simp] theorem State.clearReport_histMax (s : State) : s.clearReport.histMax = s.histMax := rfl
@[simp] theorem State.clearReport_rndCnt (s : State) : s.clearReport.rndCnt = s.rndCnt := rfl
@[simp] theorem State.clearReport_pix (s : State) : s.clearReport.pix = s.pix := rfl
@[simp] theorem State.clearReport_pay (s : State) : s.clearReport.pay = s.pay := rfl
@[simp] theorem State.clearReport_key (s : State) : s.clearReport.key = s.key := rfl
@[simp] theorem State.clearReport_pos (s : State) : s.clearReport.pos = s.pos := rfl
@[simp] theorem State.clearReport_hist (s : State) : s.clearReport.hist = s.hist := rfl
@[simp] theorem State.clearReport_pixSize (s : State) : s.clearReport.pixSize = s.pixSize := rfl
@[simp] theorem State.clearReport_drawScript (s : State) : s.clearReport.drawScript = s.drawScript := rfl
@[simp] theorem State.clearReport_drawn (s : State) : s.clearReport.drawn = s.drawn := rfl
@[simp] theorem State.clearReport_host (s : State) : s.clearReport.host = s.host := rfl
@[simp] theorem State.clearReport_lastRead (s : State) : s.clearReport.lastRead = s.lastRead := rfl
@[simp] theorem State.clearReport_freeReads (s : State) : s.clearReport.freeReads = s.freeReads := rfl

/-! ### `State.setPix` -/

@[simp] theorem State.setPix_status (s : State) (m : Memory 8) : (s.setPix m).status = s.status := rfl
@[simp] theorem State.setPix_ctrl (s : State) (m : Memory 8) : (s.setPix m).ctrl = s.ctrl := rfl
@[simp] theorem State.setPix_width (s : State) (m : Memory 8) : (s.setPix m).width = s.width := rfl
@[simp] theorem State.setPix_height (s : State) (m : Memory 8) : (s.setPix m).height = s.height := rfl
@[simp] theorem State.setPix_payLen (s : State) (m : Memory 8) : (s.setPix m).payLen = s.payLen := rfl
@[simp] theorem State.setPix_keyLen (s : State) (m : Memory 8) : (s.setPix m).keyLen = s.keyLen := rfl
@[simp] theorem State.setPix_posCnt (s : State) (m : Memory 8) : (s.setPix m).posCnt = s.posCnt := rfl
@[simp] theorem State.setPix_capacity (s : State) (m : Memory 8) : (s.setPix m).capacity = s.capacity := rfl
@[simp] theorem State.setPix_total (s : State) (m : Memory 8) : (s.setPix m).total = s.total := rfl
@[simp] theorem State.setPix_lsbOnes (s : State) (m : Memory 8) : (s.setPix m).lsbOnes = s.lsbOnes := rfl
@[simp] theorem State.setPix_entropy (s : State) (m : Memory 8) : (s.setPix m).entropy = s.entropy := rfl
@[simp] theorem State.setPix_lsbBias (s : State) (m : Memory 8) : (s.setPix m).lsbBias = s.lsbBias := rfl
@[simp] theorem State.setPix_chiSq (s : State) (m : Memory 8) : (s.setPix m).chiSq = s.chiSq := rfl
@[simp] theorem State.setPix_prob (s : State) (m : Memory 8) : (s.setPix m).prob = s.prob := rfl
@[simp] theorem State.setPix_histMax (s : State) (m : Memory 8) : (s.setPix m).histMax = s.histMax := rfl
@[simp] theorem State.setPix_rndCnt (s : State) (m : Memory 8) : (s.setPix m).rndCnt = s.rndCnt := rfl
@[simp] theorem State.setPix_pix (s : State) (m : Memory 8) : (s.setPix m).pix = m := rfl
@[simp] theorem State.setPix_pay (s : State) (m : Memory 8) : (s.setPix m).pay = s.pay := rfl
@[simp] theorem State.setPix_key (s : State) (m : Memory 8) : (s.setPix m).key = s.key := rfl
@[simp] theorem State.setPix_pos (s : State) (m : Memory 8) : (s.setPix m).pos = s.pos := rfl
@[simp] theorem State.setPix_hist (s : State) (m : Memory 8) : (s.setPix m).hist = s.hist := rfl
@[simp] theorem State.setPix_pixSize (s : State) (m : Memory 8) : (s.setPix m).pixSize = s.pixSize := rfl
@[simp] theorem State.setPix_drawScript (s : State) (m : Memory 8) : (s.setPix m).drawScript = s.drawScript := rfl
@[simp] theorem State.setPix_drawn (s : State) (m : Memory 8) : (s.setPix m).drawn = s.drawn := rfl
@[simp] theorem State.setPix_host (s : State) (m : Memory 8) : (s.setPix m).host = s.host := rfl
@[simp] theorem State.setPix_lastRead (s : State) (m : Memory 8) : (s.setPix m).lastRead = s.lastRead := rfl
@[simp] theorem State.setPix_freeReads (s : State) (m : Memory 8) : (s.setPix m).freeReads = s.freeReads := rfl

/-! ### `State.setPay` -/

@[simp] theorem State.setPay_status (s : State) (m : Memory 8) : (s.setPay m).status = s.status := rfl
@[simp] theorem State.setPay_ctrl (s : State) (m : Memory 8) : (s.setPay m).ctrl = s.ctrl := rfl
@[simp] theorem State.setPay_width (s : State) (m : Memory 8) : (s.setPay m).width = s.width := rfl
@[simp] theorem State.setPay_height (s : State) (m : Memory 8) : (s.setPay m).height = s.height := rfl
@[simp] theorem State.setPay_payLen (s : State) (m : Memory 8) : (s.setPay m).payLen = s.payLen := rfl
@[simp] theorem State.setPay_keyLen (s : State) (m : Memory 8) : (s.setPay m).keyLen = s.keyLen := rfl
@[simp] theorem State.setPay_posCnt (s : State) (m : Memory 8) : (s.setPay m).posCnt = s.posCnt := rfl
@[simp] theorem State.setPay_capacity (s : State) (m : Memory 8) : (s.setPay m).capacity = s.capacity := rfl
@[simp] theorem State.setPay_total (s : State) (m : Memory 8) : (s.setPay m).total = s.total := rfl
@[simp] theorem State.setPay_lsbOnes (s : State) (m : Memory 8) : (s.setPay m).lsbOnes = s.lsbOnes := rfl
@[simp] theorem State.setPay_entropy (s : State) (m : Memory 8) : (s.setPay m).entropy = s.entropy := rfl
@[simp] theorem State.setPay_lsbBias (s : State) (m : Memory 8) : (s.setPay m).lsbBias = s.lsbBias := rfl
@[simp] theorem State.setPay_chiSq (s : State) (m : Memory 8) : (s.setPay m).chiSq = s.chiSq := rfl
@[simp] theorem State.setPay_prob (s : State) (m : Memory 8) : (s.setPay m).prob = s.prob := rfl
@[simp] theorem State.setPay_histMax (s : State) (m : Memory 8) : (s.setPay m).histMax = s.histMax := rfl
@[simp] theorem State.setPay_rndCnt (s : State) (m : Memory 8) : (s.setPay m).rndCnt = s.rndCnt := rfl
@[simp] theorem State.setPay_pix (s : State) (m : Memory 8) : (s.setPay m).pix = s.pix := rfl
@[simp] theorem State.setPay_pay (s : State) (m : Memory 8) : (s.setPay m).pay = m := rfl
@[simp] theorem State.setPay_key (s : State) (m : Memory 8) : (s.setPay m).key = s.key := rfl
@[simp] theorem State.setPay_pos (s : State) (m : Memory 8) : (s.setPay m).pos = s.pos := rfl
@[simp] theorem State.setPay_hist (s : State) (m : Memory 8) : (s.setPay m).hist = s.hist := rfl
@[simp] theorem State.setPay_pixSize (s : State) (m : Memory 8) : (s.setPay m).pixSize = s.pixSize := rfl
@[simp] theorem State.setPay_drawScript (s : State) (m : Memory 8) : (s.setPay m).drawScript = s.drawScript := rfl
@[simp] theorem State.setPay_drawn (s : State) (m : Memory 8) : (s.setPay m).drawn = s.drawn := rfl
@[simp] theorem State.setPay_host (s : State) (m : Memory 8) : (s.setPay m).host = s.host := rfl
@[simp] theorem State.setPay_lastRead (s : State) (m : Memory 8) : (s.setPay m).lastRead = s.lastRead := rfl
@[simp] theorem State.setPay_freeReads (s : State) (m : Memory 8) : (s.setPay m).freeReads = s.freeReads := rfl

/-! ### `State.setPayLen` -/

@[simp] theorem State.setPayLen_status (s : State) (n : Nat) : (s.setPayLen n).status = s.status := rfl
@[simp] theorem State.setPayLen_ctrl (s : State) (n : Nat) : (s.setPayLen n).ctrl = s.ctrl := rfl
@[simp] theorem State.setPayLen_width (s : State) (n : Nat) : (s.setPayLen n).width = s.width := rfl
@[simp] theorem State.setPayLen_height (s : State) (n : Nat) : (s.setPayLen n).height = s.height := rfl
@[simp] theorem State.setPayLen_payLen (s : State) (n : Nat) : (s.setPayLen n).payLen = BitVec.ofNat 16 n := rfl
@[simp] theorem State.setPayLen_keyLen (s : State) (n : Nat) : (s.setPayLen n).keyLen = s.keyLen := rfl
@[simp] theorem State.setPayLen_posCnt (s : State) (n : Nat) : (s.setPayLen n).posCnt = s.posCnt := rfl
@[simp] theorem State.setPayLen_capacity (s : State) (n : Nat) : (s.setPayLen n).capacity = s.capacity := rfl
@[simp] theorem State.setPayLen_total (s : State) (n : Nat) : (s.setPayLen n).total = s.total := rfl
@[simp] theorem State.setPayLen_lsbOnes (s : State) (n : Nat) : (s.setPayLen n).lsbOnes = s.lsbOnes := rfl
@[simp] theorem State.setPayLen_entropy (s : State) (n : Nat) : (s.setPayLen n).entropy = s.entropy := rfl
@[simp] theorem State.setPayLen_lsbBias (s : State) (n : Nat) : (s.setPayLen n).lsbBias = s.lsbBias := rfl
@[simp] theorem State.setPayLen_chiSq (s : State) (n : Nat) : (s.setPayLen n).chiSq = s.chiSq := rfl
@[simp] theorem State.setPayLen_prob (s : State) (n : Nat) : (s.setPayLen n).prob = s.prob := rfl
@[simp] theorem State.setPayLen_histMax (s : State) (n : Nat) : (s.setPayLen n).histMax = s.histMax := rfl
@[simp] theorem State.setPayLen_rndCnt (s : State) (n : Nat) : (s.setPayLen n).rndCnt = s.rndCnt := rfl
@[simp] theorem State.setPayLen_pix (s : State) (n : Nat) : (s.setPayLen n).pix = s.pix := rfl
@[simp] theorem State.setPayLen_pay (s : State) (n : Nat) : (s.setPayLen n).pay = s.pay := rfl
@[simp] theorem State.setPayLen_key (s : State) (n : Nat) : (s.setPayLen n).key = s.key := rfl
@[simp] theorem State.setPayLen_pos (s : State) (n : Nat) : (s.setPayLen n).pos = s.pos := rfl
@[simp] theorem State.setPayLen_hist (s : State) (n : Nat) : (s.setPayLen n).hist = s.hist := rfl
@[simp] theorem State.setPayLen_pixSize (s : State) (n : Nat) : (s.setPayLen n).pixSize = s.pixSize := rfl
@[simp] theorem State.setPayLen_drawScript (s : State) (n : Nat) : (s.setPayLen n).drawScript = s.drawScript := rfl
@[simp] theorem State.setPayLen_drawn (s : State) (n : Nat) : (s.setPayLen n).drawn = s.drawn := rfl
@[simp] theorem State.setPayLen_host (s : State) (n : Nat) : (s.setPayLen n).host = s.host := rfl
@[simp] theorem State.setPayLen_lastRead (s : State) (n : Nat) : (s.setPayLen n).lastRead = s.lastRead := rfl
@[simp] theorem State.setPayLen_freeReads (s : State) (n : Nat) : (s.setPayLen n).freeReads = s.freeReads := rfl

/-! ### `State.setSchemeUsed` -/

@[simp] theorem State.setSchemeUsed_status (s : State) (c : Codec) : (s.setSchemeUsed c).status = { s.status with schemeUsed := c } := rfl
@[simp] theorem State.setSchemeUsed_ctrl (s : State) (c : Codec) : (s.setSchemeUsed c).ctrl = s.ctrl := rfl
@[simp] theorem State.setSchemeUsed_width (s : State) (c : Codec) : (s.setSchemeUsed c).width = s.width := rfl
@[simp] theorem State.setSchemeUsed_height (s : State) (c : Codec) : (s.setSchemeUsed c).height = s.height := rfl
@[simp] theorem State.setSchemeUsed_payLen (s : State) (c : Codec) : (s.setSchemeUsed c).payLen = s.payLen := rfl
@[simp] theorem State.setSchemeUsed_keyLen (s : State) (c : Codec) : (s.setSchemeUsed c).keyLen = s.keyLen := rfl
@[simp] theorem State.setSchemeUsed_posCnt (s : State) (c : Codec) : (s.setSchemeUsed c).posCnt = s.posCnt := rfl
@[simp] theorem State.setSchemeUsed_capacity (s : State) (c : Codec) : (s.setSchemeUsed c).capacity = s.capacity := rfl
@[simp] theorem State.setSchemeUsed_total (s : State) (c : Codec) : (s.setSchemeUsed c).total = s.total := rfl
@[simp] theorem State.setSchemeUsed_lsbOnes (s : State) (c : Codec) : (s.setSchemeUsed c).lsbOnes = s.lsbOnes := rfl
@[simp] theorem State.setSchemeUsed_entropy (s : State) (c : Codec) : (s.setSchemeUsed c).entropy = s.entropy := rfl
@[simp] theorem State.setSchemeUsed_lsbBias (s : State) (c : Codec) : (s.setSchemeUsed c).lsbBias = s.lsbBias := rfl
@[simp] theorem State.setSchemeUsed_chiSq (s : State) (c : Codec) : (s.setSchemeUsed c).chiSq = s.chiSq := rfl
@[simp] theorem State.setSchemeUsed_prob (s : State) (c : Codec) : (s.setSchemeUsed c).prob = s.prob := rfl
@[simp] theorem State.setSchemeUsed_histMax (s : State) (c : Codec) : (s.setSchemeUsed c).histMax = s.histMax := rfl
@[simp] theorem State.setSchemeUsed_rndCnt (s : State) (c : Codec) : (s.setSchemeUsed c).rndCnt = s.rndCnt := rfl
@[simp] theorem State.setSchemeUsed_pix (s : State) (c : Codec) : (s.setSchemeUsed c).pix = s.pix := rfl
@[simp] theorem State.setSchemeUsed_pay (s : State) (c : Codec) : (s.setSchemeUsed c).pay = s.pay := rfl
@[simp] theorem State.setSchemeUsed_key (s : State) (c : Codec) : (s.setSchemeUsed c).key = s.key := rfl
@[simp] theorem State.setSchemeUsed_pos (s : State) (c : Codec) : (s.setSchemeUsed c).pos = s.pos := rfl
@[simp] theorem State.setSchemeUsed_hist (s : State) (c : Codec) : (s.setSchemeUsed c).hist = s.hist := rfl
@[simp] theorem State.setSchemeUsed_pixSize (s : State) (c : Codec) : (s.setSchemeUsed c).pixSize = s.pixSize := rfl
@[simp] theorem State.setSchemeUsed_drawScript (s : State) (c : Codec) : (s.setSchemeUsed c).drawScript = s.drawScript := rfl
@[simp] theorem State.setSchemeUsed_drawn (s : State) (c : Codec) : (s.setSchemeUsed c).drawn = s.drawn := rfl
@[simp] theorem State.setSchemeUsed_host (s : State) (c : Codec) : (s.setSchemeUsed c).host = s.host := rfl
@[simp] theorem State.setSchemeUsed_lastRead (s : State) (c : Codec) : (s.setSchemeUsed c).lastRead = s.lastRead := rfl
@[simp] theorem State.setSchemeUsed_freeReads (s : State) (c : Codec) : (s.setSchemeUsed c).freeReads = s.freeReads := rfl

/-! ### `State.setPlaus` -/

@[simp] theorem State.setPlaus_status (s : State) (b : Bool) : (s.setPlaus b).status = { s.status with plaus := b } := rfl
@[simp] theorem State.setPlaus_ctrl (s : State) (b : Bool) : (s.setPlaus b).ctrl = s.ctrl := rfl
@[simp] theorem State.setPlaus_width (s : State) (b : Bool) : (s.setPlaus b).width = s.width := rfl
@[simp] theorem State.setPlaus_height (s : State) (b : Bool) : (s.setPlaus b).height = s.height := rfl
@[simp] theorem State.setPlaus_payLen (s : State) (b : Bool) : (s.setPlaus b).payLen = s.payLen := rfl
@[simp] theorem State.setPlaus_keyLen (s : State) (b : Bool) : (s.setPlaus b).keyLen = s.keyLen := rfl
@[simp] theorem State.setPlaus_posCnt (s : State) (b : Bool) : (s.setPlaus b).posCnt = s.posCnt := rfl
@[simp] theorem State.setPlaus_capacity (s : State) (b : Bool) : (s.setPlaus b).capacity = s.capacity := rfl
@[simp] theorem State.setPlaus_total (s : State) (b : Bool) : (s.setPlaus b).total = s.total := rfl
@[simp] theorem State.setPlaus_lsbOnes (s : State) (b : Bool) : (s.setPlaus b).lsbOnes = s.lsbOnes := rfl
@[simp] theorem State.setPlaus_entropy (s : State) (b : Bool) : (s.setPlaus b).entropy = s.entropy := rfl
@[simp] theorem State.setPlaus_lsbBias (s : State) (b : Bool) : (s.setPlaus b).lsbBias = s.lsbBias := rfl
@[simp] theorem State.setPlaus_chiSq (s : State) (b : Bool) : (s.setPlaus b).chiSq = s.chiSq := rfl
@[simp] theorem State.setPlaus_prob (s : State) (b : Bool) : (s.setPlaus b).prob = s.prob := rfl
@[simp] theorem State.setPlaus_histMax (s : State) (b : Bool) : (s.setPlaus b).histMax = s.histMax := rfl
@[simp] theorem State.setPlaus_rndCnt (s : State) (b : Bool) : (s.setPlaus b).rndCnt = s.rndCnt := rfl
@[simp] theorem State.setPlaus_pix (s : State) (b : Bool) : (s.setPlaus b).pix = s.pix := rfl
@[simp] theorem State.setPlaus_pay (s : State) (b : Bool) : (s.setPlaus b).pay = s.pay := rfl
@[simp] theorem State.setPlaus_key (s : State) (b : Bool) : (s.setPlaus b).key = s.key := rfl
@[simp] theorem State.setPlaus_pos (s : State) (b : Bool) : (s.setPlaus b).pos = s.pos := rfl
@[simp] theorem State.setPlaus_hist (s : State) (b : Bool) : (s.setPlaus b).hist = s.hist := rfl
@[simp] theorem State.setPlaus_pixSize (s : State) (b : Bool) : (s.setPlaus b).pixSize = s.pixSize := rfl
@[simp] theorem State.setPlaus_drawScript (s : State) (b : Bool) : (s.setPlaus b).drawScript = s.drawScript := rfl
@[simp] theorem State.setPlaus_drawn (s : State) (b : Bool) : (s.setPlaus b).drawn = s.drawn := rfl
@[simp] theorem State.setPlaus_host (s : State) (b : Bool) : (s.setPlaus b).host = s.host := rfl
@[simp] theorem State.setPlaus_lastRead (s : State) (b : Bool) : (s.setPlaus b).lastRead = s.lastRead := rfl
@[simp] theorem State.setPlaus_freeReads (s : State) (b : Bool) : (s.setPlaus b).freeReads = s.freeReads := rfl

/-! ### `State.setCapacity` -/

@[simp] theorem State.setCapacity_status (s : State) (c : Int) : (s.setCapacity c).status = s.status := rfl
@[simp] theorem State.setCapacity_ctrl (s : State) (c : Int) : (s.setCapacity c).ctrl = s.ctrl := rfl
@[simp] theorem State.setCapacity_width (s : State) (c : Int) : (s.setCapacity c).width = s.width := rfl
@[simp] theorem State.setCapacity_height (s : State) (c : Int) : (s.setCapacity c).height = s.height := rfl
@[simp] theorem State.setCapacity_payLen (s : State) (c : Int) : (s.setCapacity c).payLen = s.payLen := rfl
@[simp] theorem State.setCapacity_keyLen (s : State) (c : Int) : (s.setCapacity c).keyLen = s.keyLen := rfl
@[simp] theorem State.setCapacity_posCnt (s : State) (c : Int) : (s.setCapacity c).posCnt = s.posCnt := rfl
@[simp] theorem State.setCapacity_capacity (s : State) (c : Int) : (s.setCapacity c).capacity = BitVec.ofInt 32 c := rfl
@[simp] theorem State.setCapacity_total (s : State) (c : Int) : (s.setCapacity c).total = s.total := rfl
@[simp] theorem State.setCapacity_lsbOnes (s : State) (c : Int) : (s.setCapacity c).lsbOnes = s.lsbOnes := rfl
@[simp] theorem State.setCapacity_entropy (s : State) (c : Int) : (s.setCapacity c).entropy = s.entropy := rfl
@[simp] theorem State.setCapacity_lsbBias (s : State) (c : Int) : (s.setCapacity c).lsbBias = s.lsbBias := rfl
@[simp] theorem State.setCapacity_chiSq (s : State) (c : Int) : (s.setCapacity c).chiSq = s.chiSq := rfl
@[simp] theorem State.setCapacity_prob (s : State) (c : Int) : (s.setCapacity c).prob = s.prob := rfl
@[simp] theorem State.setCapacity_histMax (s : State) (c : Int) : (s.setCapacity c).histMax = s.histMax := rfl
@[simp] theorem State.setCapacity_rndCnt (s : State) (c : Int) : (s.setCapacity c).rndCnt = s.rndCnt := rfl
@[simp] theorem State.setCapacity_pix (s : State) (c : Int) : (s.setCapacity c).pix = s.pix := rfl
@[simp] theorem State.setCapacity_pay (s : State) (c : Int) : (s.setCapacity c).pay = s.pay := rfl
@[simp] theorem State.setCapacity_key (s : State) (c : Int) : (s.setCapacity c).key = s.key := rfl
@[simp] theorem State.setCapacity_pos (s : State) (c : Int) : (s.setCapacity c).pos = s.pos := rfl
@[simp] theorem State.setCapacity_hist (s : State) (c : Int) : (s.setCapacity c).hist = s.hist := rfl
@[simp] theorem State.setCapacity_pixSize (s : State) (c : Int) : (s.setCapacity c).pixSize = s.pixSize := rfl
@[simp] theorem State.setCapacity_drawScript (s : State) (c : Int) : (s.setCapacity c).drawScript = s.drawScript := rfl
@[simp] theorem State.setCapacity_drawn (s : State) (c : Int) : (s.setCapacity c).drawn = s.drawn := rfl
@[simp] theorem State.setCapacity_host (s : State) (c : Int) : (s.setCapacity c).host = s.host := rfl
@[simp] theorem State.setCapacity_lastRead (s : State) (c : Int) : (s.setCapacity c).lastRead = s.lastRead := rfl
@[simp] theorem State.setCapacity_freeReads (s : State) (c : Int) : (s.setCapacity c).freeReads = s.freeReads := rfl

/-! ### `State.storePositions` -/

@[simp] theorem State.storePositions_status (s : State) (P : List Nat) : (s.storePositions P).status = s.status := rfl
@[simp] theorem State.storePositions_ctrl (s : State) (P : List Nat) : (s.storePositions P).ctrl = s.ctrl := rfl
@[simp] theorem State.storePositions_width (s : State) (P : List Nat) : (s.storePositions P).width = s.width := rfl
@[simp] theorem State.storePositions_height (s : State) (P : List Nat) : (s.storePositions P).height = s.height := rfl
@[simp] theorem State.storePositions_payLen (s : State) (P : List Nat) : (s.storePositions P).payLen = s.payLen := rfl
@[simp] theorem State.storePositions_keyLen (s : State) (P : List Nat) : (s.storePositions P).keyLen = s.keyLen := rfl
@[simp] theorem State.storePositions_posCnt (s : State) (P : List Nat) : (s.storePositions P).posCnt = BitVec.ofNat 32 P.length := rfl
@[simp] theorem State.storePositions_capacity (s : State) (P : List Nat) : (s.storePositions P).capacity = s.capacity := rfl
@[simp] theorem State.storePositions_total (s : State) (P : List Nat) : (s.storePositions P).total = s.total := rfl
@[simp] theorem State.storePositions_lsbOnes (s : State) (P : List Nat) : (s.storePositions P).lsbOnes = s.lsbOnes := rfl
@[simp] theorem State.storePositions_entropy (s : State) (P : List Nat) : (s.storePositions P).entropy = s.entropy := rfl
@[simp] theorem State.storePositions_lsbBias (s : State) (P : List Nat) : (s.storePositions P).lsbBias = s.lsbBias := rfl
@[simp] theorem State.storePositions_chiSq (s : State) (P : List Nat) : (s.storePositions P).chiSq = s.chiSq := rfl
@[simp] theorem State.storePositions_prob (s : State) (P : List Nat) : (s.storePositions P).prob = s.prob := rfl
@[simp] theorem State.storePositions_histMax (s : State) (P : List Nat) : (s.storePositions P).histMax = s.histMax := rfl
@[simp] theorem State.storePositions_rndCnt (s : State) (P : List Nat) : (s.storePositions P).rndCnt = s.rndCnt := rfl
@[simp] theorem State.storePositions_pix (s : State) (P : List Nat) : (s.storePositions P).pix = s.pix := rfl
@[simp] theorem State.storePositions_pay (s : State) (P : List Nat) : (s.storePositions P).pay = s.pay := rfl
@[simp] theorem State.storePositions_key (s : State) (P : List Nat) : (s.storePositions P).key = s.key := rfl
@[simp] theorem State.storePositions_pos (s : State) (P : List Nat) : (s.storePositions P).pos = memStore s.pos 0 (P.map (BitVec.ofNat 32)) := rfl
@[simp] theorem State.storePositions_hist (s : State) (P : List Nat) : (s.storePositions P).hist = s.hist := rfl
@[simp] theorem State.storePositions_pixSize (s : State) (P : List Nat) : (s.storePositions P).pixSize = s.pixSize := rfl
@[simp] theorem State.storePositions_drawScript (s : State) (P : List Nat) : (s.storePositions P).drawScript = s.drawScript := rfl
@[simp] theorem State.storePositions_drawn (s : State) (P : List Nat) : (s.storePositions P).drawn = s.drawn := rfl
@[simp] theorem State.storePositions_host (s : State) (P : List Nat) : (s.storePositions P).host = s.host := rfl
@[simp] theorem State.storePositions_lastRead (s : State) (P : List Nat) : (s.storePositions P).lastRead = s.lastRead := rfl
@[simp] theorem State.storePositions_freeReads (s : State) (P : List Nat) : (s.storePositions P).freeReads = s.freeReads := rfl

/-! ### `State.afterDraw` -/

@[simp] theorem State.afterDraw_status (s : State) : s.afterDraw.status = s.status := rfl
@[simp] theorem State.afterDraw_ctrl (s : State) : s.afterDraw.ctrl = s.ctrl := rfl
@[simp] theorem State.afterDraw_width (s : State) : s.afterDraw.width = s.width := rfl
@[simp] theorem State.afterDraw_height (s : State) : s.afterDraw.height = s.height := rfl
@[simp] theorem State.afterDraw_payLen (s : State) : s.afterDraw.payLen = s.payLen := rfl
@[simp] theorem State.afterDraw_keyLen (s : State) : s.afterDraw.keyLen = s.keyLen := rfl
@[simp] theorem State.afterDraw_posCnt (s : State) : s.afterDraw.posCnt = s.posCnt := rfl
@[simp] theorem State.afterDraw_capacity (s : State) : s.afterDraw.capacity = s.capacity := rfl
@[simp] theorem State.afterDraw_total (s : State) : s.afterDraw.total = s.total := rfl
@[simp] theorem State.afterDraw_lsbOnes (s : State) : s.afterDraw.lsbOnes = s.lsbOnes := rfl
@[simp] theorem State.afterDraw_entropy (s : State) : s.afterDraw.entropy = s.entropy := rfl
@[simp] theorem State.afterDraw_lsbBias (s : State) : s.afterDraw.lsbBias = s.lsbBias := rfl
@[simp] theorem State.afterDraw_chiSq (s : State) : s.afterDraw.chiSq = s.chiSq := rfl
@[simp] theorem State.afterDraw_prob (s : State) : s.afterDraw.prob = s.prob := rfl
@[simp] theorem State.afterDraw_histMax (s : State) : s.afterDraw.histMax = s.histMax := rfl
@[simp] theorem State.afterDraw_rndCnt (s : State) : s.afterDraw.rndCnt = s.rndCnt + 1 := rfl
@[simp] theorem State.afterDraw_pix (s : State) : s.afterDraw.pix = s.pix := rfl
@[simp] theorem State.afterDraw_pay (s : State) : s.afterDraw.pay = s.pay := rfl
@[simp] theorem State.afterDraw_key (s : State) : s.afterDraw.key = s.key := rfl
@[simp] theorem State.afterDraw_pos (s : State) : s.afterDraw.pos = s.pos := rfl
@[simp] theorem State.afterDraw_hist (s : State) : s.afterDraw.hist = s.hist := rfl
@[simp] theorem State.afterDraw_pixSize (s : State) : s.afterDraw.pixSize = s.pixSize := rfl
@[simp] theorem State.afterDraw_drawScript (s : State) : s.afterDraw.drawScript = s.drawScript.tail := rfl
@[simp] theorem State.afterDraw_drawn (s : State) : s.afterDraw.drawn = s.drawn + 1 := rfl
@[simp] theorem State.afterDraw_host (s : State) : s.afterDraw.host = s.host := rfl
@[simp] theorem State.afterDraw_lastRead (s : State) : s.afterDraw.lastRead = s.lastRead := rfl
@[simp] theorem State.afterDraw_freeReads (s : State) : s.afterDraw.freeReads = s.freeReads := rfl

/-! ### `State.resetRegisters` -/

@[simp] theorem State.resetRegisters_status (s : State) : s.resetRegisters.status = State.reset.status := rfl
@[simp] theorem State.resetRegisters_ctrl (s : State) : s.resetRegisters.ctrl = State.reset.ctrl := rfl
@[simp] theorem State.resetRegisters_width (s : State) : s.resetRegisters.width = State.reset.width := rfl
@[simp] theorem State.resetRegisters_height (s : State) : s.resetRegisters.height = State.reset.height := rfl
@[simp] theorem State.resetRegisters_payLen (s : State) : s.resetRegisters.payLen = State.reset.payLen := rfl
@[simp] theorem State.resetRegisters_keyLen (s : State) : s.resetRegisters.keyLen = State.reset.keyLen := rfl
@[simp] theorem State.resetRegisters_posCnt (s : State) : s.resetRegisters.posCnt = State.reset.posCnt := rfl
@[simp] theorem State.resetRegisters_capacity (s : State) : s.resetRegisters.capacity = State.reset.capacity := rfl
@[simp] theorem State.resetRegisters_total (s : State) : s.resetRegisters.total = State.reset.total := rfl
@[simp] theorem State.resetRegisters_lsbOnes (s : State) : s.resetRegisters.lsbOnes = State.reset.lsbOnes := rfl
@[simp] theorem State.resetRegisters_entropy (s : State) : s.resetRegisters.entropy = State.reset.entropy := rfl
@[simp] theorem State.resetRegisters_lsbBias (s : State) : s.resetRegisters.lsbBias = State.reset.lsbBias := rfl
@[simp] theorem State.resetRegisters_chiSq (s : State) : s.resetRegisters.chiSq = State.reset.chiSq := rfl
@[simp] theorem State.resetRegisters_prob (s : State) : s.resetRegisters.prob = State.reset.prob := rfl
@[simp] theorem State.resetRegisters_histMax (s : State) : s.resetRegisters.histMax = State.reset.histMax := rfl
@[simp] theorem State.resetRegisters_rndCnt (s : State) : s.resetRegisters.rndCnt = State.reset.rndCnt := rfl
@[simp] theorem State.resetRegisters_pix (s : State) : s.resetRegisters.pix = s.pix := rfl
@[simp] theorem State.resetRegisters_pay (s : State) : s.resetRegisters.pay = s.pay := rfl
@[simp] theorem State.resetRegisters_key (s : State) : s.resetRegisters.key = s.key := rfl
@[simp] theorem State.resetRegisters_pos (s : State) : s.resetRegisters.pos = s.pos := rfl
@[simp] theorem State.resetRegisters_hist (s : State) : s.resetRegisters.hist = s.hist := rfl
@[simp] theorem State.resetRegisters_pixSize (s : State) : s.resetRegisters.pixSize = s.pixSize := rfl
@[simp] theorem State.resetRegisters_drawScript (s : State) : s.resetRegisters.drawScript = s.drawScript := rfl
@[simp] theorem State.resetRegisters_drawn (s : State) : s.resetRegisters.drawn = s.drawn := rfl
@[simp] theorem State.resetRegisters_host (s : State) : s.resetRegisters.host = s.host := rfl
@[simp] theorem State.resetRegisters_lastRead (s : State) : s.resetRegisters.lastRead = s.lastRead := rfl
@[simp] theorem State.resetRegisters_freeReads (s : State) : s.resetRegisters.freeReads = s.freeReads := rfl

/-! ### `State.recordAnalysis`: the fields it leaves -/

@[simp] theorem State.recordAnalysis_status (T : Nat) (h : List Nat) (r1 r2 : DrawWord) (s : State) :
    (s.recordAnalysis T h r1 r2).status = s.status := rfl
@[simp] theorem State.recordAnalysis_ctrl (T : Nat) (h : List Nat) (r1 r2 : DrawWord) (s : State) :
    (s.recordAnalysis T h r1 r2).ctrl = s.ctrl := rfl
@[simp] theorem State.recordAnalysis_width (T : Nat) (h : List Nat) (r1 r2 : DrawWord) (s : State) :
    (s.recordAnalysis T h r1 r2).width = s.width := rfl
@[simp] theorem State.recordAnalysis_height (T : Nat) (h : List Nat) (r1 r2 : DrawWord) (s : State) :
    (s.recordAnalysis T h r1 r2).height = s.height := rfl
@[simp] theorem State.recordAnalysis_payLen (T : Nat) (h : List Nat) (r1 r2 : DrawWord) (s : State) :
    (s.recordAnalysis T h r1 r2).payLen = s.payLen := rfl
@[simp] theorem State.recordAnalysis_keyLen (T : Nat) (h : List Nat) (r1 r2 : DrawWord) (s : State) :
    (s.recordAnalysis T h r1 r2).keyLen = s.keyLen := rfl
@[simp] theorem State.recordAnalysis_posCnt (T : Nat) (h : List Nat) (r1 r2 : DrawWord) (s : State) :
    (s.recordAnalysis T h r1 r2).posCnt = s.posCnt := rfl
@[simp] theorem State.recordAnalysis_capacity (T : Nat) (h : List Nat) (r1 r2 : DrawWord) (s : State) :
    (s.recordAnalysis T h r1 r2).capacity = s.capacity := rfl
@[simp] theorem State.recordAnalysis_rndCnt (T : Nat) (h : List Nat) (r1 r2 : DrawWord) (s : State) :
    (s.recordAnalysis T h r1 r2).rndCnt = s.rndCnt := rfl
@[simp] theorem State.recordAnalysis_pix (T : Nat) (h : List Nat) (r1 r2 : DrawWord) (s : State) :
    (s.recordAnalysis T h r1 r2).pix = s.pix := rfl
@[simp] theorem State.recordAnalysis_pay (T : Nat) (h : List Nat) (r1 r2 : DrawWord) (s : State) :
    (s.recordAnalysis T h r1 r2).pay = s.pay := rfl
@[simp] theorem State.recordAnalysis_key (T : Nat) (h : List Nat) (r1 r2 : DrawWord) (s : State) :
    (s.recordAnalysis T h r1 r2).key = s.key := rfl
@[simp] theorem State.recordAnalysis_pos (T : Nat) (h : List Nat) (r1 r2 : DrawWord) (s : State) :
    (s.recordAnalysis T h r1 r2).pos = s.pos := rfl
@[simp] theorem State.recordAnalysis_pixSize (T : Nat) (h : List Nat) (r1 r2 : DrawWord) (s : State) :
    (s.recordAnalysis T h r1 r2).pixSize = s.pixSize := rfl
@[simp] theorem State.recordAnalysis_drawScript (T : Nat) (h : List Nat) (r1 r2 : DrawWord) (s : State) :
    (s.recordAnalysis T h r1 r2).drawScript = s.drawScript := rfl
@[simp] theorem State.recordAnalysis_drawn (T : Nat) (h : List Nat) (r1 r2 : DrawWord) (s : State) :
    (s.recordAnalysis T h r1 r2).drawn = s.drawn := rfl
@[simp] theorem State.recordAnalysis_host (T : Nat) (h : List Nat) (r1 r2 : DrawWord) (s : State) :
    (s.recordAnalysis T h r1 r2).host = s.host := rfl
@[simp] theorem State.recordAnalysis_lastRead (T : Nat) (h : List Nat) (r1 r2 : DrawWord) (s : State) :
    (s.recordAnalysis T h r1 r2).lastRead = s.lastRead := rfl
@[simp] theorem State.recordAnalysis_freeReads (T : Nat) (h : List Nat) (r1 r2 : DrawWord) (s : State) :
    (s.recordAnalysis T h r1 r2).freeReads = s.freeReads := rfl

/-! ### `State.deliver`: the fields it leaves -/

@[simp] theorem State.deliver_ctrl (c : Codec) (B : List Byte) (s : State) : (s.deliver c B).ctrl = s.ctrl := rfl
@[simp] theorem State.deliver_width (c : Codec) (B : List Byte) (s : State) : (s.deliver c B).width = s.width := rfl
@[simp] theorem State.deliver_height (c : Codec) (B : List Byte) (s : State) : (s.deliver c B).height = s.height := rfl
@[simp] theorem State.deliver_keyLen (c : Codec) (B : List Byte) (s : State) : (s.deliver c B).keyLen = s.keyLen := rfl
@[simp] theorem State.deliver_posCnt (c : Codec) (B : List Byte) (s : State) : (s.deliver c B).posCnt = s.posCnt := rfl
@[simp] theorem State.deliver_capacity (c : Codec) (B : List Byte) (s : State) : (s.deliver c B).capacity = s.capacity := rfl
@[simp] theorem State.deliver_total (c : Codec) (B : List Byte) (s : State) : (s.deliver c B).total = s.total := rfl
@[simp] theorem State.deliver_lsbOnes (c : Codec) (B : List Byte) (s : State) : (s.deliver c B).lsbOnes = s.lsbOnes := rfl
@[simp] theorem State.deliver_entropy (c : Codec) (B : List Byte) (s : State) : (s.deliver c B).entropy = s.entropy := rfl
@[simp] theorem State.deliver_lsbBias (c : Codec) (B : List Byte) (s : State) : (s.deliver c B).lsbBias = s.lsbBias := rfl
@[simp] theorem State.deliver_chiSq (c : Codec) (B : List Byte) (s : State) : (s.deliver c B).chiSq = s.chiSq := rfl
@[simp] theorem State.deliver_prob (c : Codec) (B : List Byte) (s : State) : (s.deliver c B).prob = s.prob := rfl
@[simp] theorem State.deliver_histMax (c : Codec) (B : List Byte) (s : State) : (s.deliver c B).histMax = s.histMax := rfl
@[simp] theorem State.deliver_rndCnt (c : Codec) (B : List Byte) (s : State) : (s.deliver c B).rndCnt = s.rndCnt := rfl
@[simp] theorem State.deliver_pix (c : Codec) (B : List Byte) (s : State) : (s.deliver c B).pix = s.pix := rfl
@[simp] theorem State.deliver_key (c : Codec) (B : List Byte) (s : State) : (s.deliver c B).key = s.key := rfl
@[simp] theorem State.deliver_pos (c : Codec) (B : List Byte) (s : State) : (s.deliver c B).pos = s.pos := rfl
@[simp] theorem State.deliver_hist (c : Codec) (B : List Byte) (s : State) : (s.deliver c B).hist = s.hist := rfl
@[simp] theorem State.deliver_pixSize (c : Codec) (B : List Byte) (s : State) : (s.deliver c B).pixSize = s.pixSize := rfl
@[simp] theorem State.deliver_drawScript (c : Codec) (B : List Byte) (s : State) : (s.deliver c B).drawScript = s.drawScript := rfl
@[simp] theorem State.deliver_drawn (c : Codec) (B : List Byte) (s : State) : (s.deliver c B).drawn = s.drawn := rfl
@[simp] theorem State.deliver_host (c : Codec) (B : List Byte) (s : State) : (s.deliver c B).host = s.host := rfl
@[simp] theorem State.deliver_lastRead (c : Codec) (B : List Byte) (s : State) : (s.deliver c B).lastRead = s.lastRead := rfl
@[simp] theorem State.deliver_freeReads (c : Codec) (B : List Byte) (s : State) : (s.deliver c B).freeReads = s.freeReads := rfl

@[simp] theorem State.deliver_payLen (c : Codec) (B : List Byte) (s : State) :
    (s.deliver c B).payLen = BitVec.ofNat 16 B.length := rfl

@[simp] theorem State.deliver_status (c : Codec) (B : List Byte) (s : State) :
    (s.deliver c B).status = { s.status with schemeUsed := c } := rfl

@[simp] theorem State.deliver_pay (c : Codec) (B : List Byte) (s : State) :
    (s.deliver c B).pay = memStore s.pay 0 ((List.range B.length).map (s.cipher fun i => B.getD i 0)) := rfl

end Sys2Proof.Machine
end

