-- ==== Sys2Proof/Laws/Ops.lean ====
section
/-! SUPPORT. What the shared operations can do, said once: the command life cycle, the tests before the first write,
the host port, and that every command and every step answers a next state. -/

namespace Sys2Proof.Machine

/-! ### Tests -/

@[simp] theorem firstFailing_nil : firstFailing [] = none := rfl

@[simp] theorem firstFailing_cons (b : Bool) (e : CmdError) (rest : Tests) :
    firstFailing ((b, e) :: rest) = if b then some e else firstFailing rest := rfl

theorem firstFailing_append (a b : Tests) :
    firstFailing (a ++ b) = (firstFailing a).or (firstFailing b) := by
  induction a with
  | nil => simp
  | cons t rest ih =>
    obtain ⟨f, e⟩ := t
    simp only [List.cons_append, firstFailing_cons, ih]
    split <;> simp

/-- No test fires exactly when every test is false. -/
theorem firstFailing_eq_none {tests : Tests} : firstFailing tests = none ↔ ∀ t ∈ tests, t.1 = false := by
  induction tests with
  | nil => simp
  | cons t rest ih =>
    obtain ⟨f, e⟩ := t
    cases f <;> simp [ih]

/-- A rule whose tests fail ends in that error with nothing changed. -/
theorem checked_of_some {tests : Tests} {e : CmdError} (h : firstFailing tests = some e) (s : State)
    (rule : State → Ending) : checked tests s rule = .raised e s := by unfold checked; rw [h]

/-- A rule whose tests pass runs. -/
theorem checked_of_none {tests : Tests} (h : firstFailing tests = none) (s : State) (rule : State → Ending) :
    checked tests s rule = rule s := by unfold checked; rw [h]

/-- Everything a checked rule can do. -/
theorem checked_cases (tests : Tests) (s : State) (rule : State → Ending) :
    (∃ e, firstFailing tests = some e ∧ checked tests s rule = .raised e s) ∨
    (firstFailing tests = none ∧ checked tests s rule = rule s) := by
  cases h : firstFailing tests with
  | some e => exact .inl ⟨e, rfl, checked_of_some h s rule⟩
  | none => exact .inr ⟨rfl, checked_of_none h s rule⟩

/-! ### The command life cycle -/

@[simp] theorem runCommand_eq (rule : State → Ending) (s : State) : runCommand rule s = .next (rule s.accept).state := rfl

@[simp] theorem state_completed (s : State) : (Ending.completed s).state = s.complete := rfl

@[simp] theorem state_raised (e : CmdError) (s : State) : (Ending.raised e s).state = s.raise e := rfl

/-- A rule that changes nothing and completes leaves a success report. -/
theorem complete_accept (s : State) : s.accept.complete = s.reporting none := rfl

/-- A rule that changes nothing and raises leaves the error report. -/
theorem raise_accept (e : CmdError) (s : State) : s.accept.raise e = s.reporting (some e) := rfl

/-- The exception mechanism, said once: a raising command changes `STATUS` only beyond what its rule changed, and
leaves `BUSY` = 0, `DONE` = 1, the error, and `PLAUS` and `SCHEME_USED` as the rule left them. -/
theorem raise_spec (e : CmdError) (s : State) :
    s.raise e = { s with status := (s.raise e).status } ∧ (s.raise e).status.busy = false ∧
      (s.raise e).status.done = true ∧ (s.raise e).status.error = some e ∧
      (s.raise e).status.plaus = s.status.plaus ∧ (s.raise e).status.schemeUsed = s.status.schemeUsed :=
  ⟨rfl, rfl, rfl, rfl, rfl, rfl⟩

/-- Every command answers a next state. -/
theorem exec_next (i : Instr) (s : State) : ∃ t, exec i s = .next t := by
  cases i <;> exact ⟨_, rfl⟩

/-! ### Steps -/

theorem issue_ok {w : Word} {i : Instr} (h : decode w = .ok i) (s : State) : issue w s = exec i s := by
  unfold issue; rw [h]

theorem issue_error {w : Word} {r : Reject} (h : decode w = .error r) (s : State) :
    issue w s = .next (rejectCommand r s) := by
  unfold issue; rw [h]

theorem step_nil {s : State} (h : s.host = []) : step s = .next s := by unfold step; rw [h]

theorem step_issued {s : State} {op : HostOp} {rest : List HostOp} {w : Word} (h : s.host = op :: rest)
    (hi : issuedCommand s op = some w) : step s = issue w { s with host := rest } := by
  unfold step; simp only [h, hi]

theorem step_other {s : State} {op : HostOp} {rest : List HostOp} (h : s.host = op :: rest)
    (hi : issuedCommand s op = none) : step s = .next (hostEffect { s with host := rest } op) := by
  unfold step; simp only [h, hi]

theorem issuedCommand_eq_some {s : State} {op : HostOp} {w : Word} :
    issuedCommand s op = some w ↔ op = .regWrite 1 w ∧ s.status.busy = false := by
  cases op <;> simp only [issuedCommand, reduceCtorEq, false_and]
  split
  next h => simp [h.1, h.2]
  next h =>
    simp only [reduceCtorEq, HostOp.regWrite.injEq, false_iff]
    exact fun e => h ⟨e.1.1, e.2⟩

/-- Everything a step can do: wait for the host, run a command, reject a word, or perform another host operation. -/
theorem step_cases (s : State) :
    (s.host = [] ∧ step s = .next s) ∨
    (∃ w rest i, s.host = .regWrite 1 w :: rest ∧ s.status.busy = false ∧ decode w = .ok i ∧
      step s = exec i { s with host := rest }) ∨
    (∃ w rest r, s.host = .regWrite 1 w :: rest ∧ s.status.busy = false ∧ decode w = .error r ∧
      step s = .next (rejectCommand r { s with host := rest })) ∨
    (∃ op rest, s.host = op :: rest ∧ issuedCommand s op = none ∧
      step s = .next (hostEffect { s with host := rest } op)) := by
  cases hh : s.host with
  | nil => exact .inl ⟨rfl, step_nil hh⟩
  | cons op rest =>
    cases hi : issuedCommand s op with
    | none => exact .inr (.inr (.inr ⟨op, rest, rfl, hi, step_other hh hi⟩))
    | some w =>
      have hs := step_issued hh hi
      obtain ⟨rfl, hb⟩ := issuedCommand_eq_some.1 hi
      cases hd : decode w with
      | ok i => exact .inr (.inl ⟨w, rest, i, rfl, hb, hd, hs.trans (issue_ok hd _)⟩)
      | error r => exact .inr (.inr (.inl ⟨w, rest, r, rfl, hb, hd, hs.trans (issue_error hd _)⟩))

/-- Every step answers a next state (60_exceptions.md R228). -/
theorem step_next (s : State) : ∃ t, step s = .next t := by
  obtain ⟨_, h⟩ | ⟨_, _, i, _, _, _, h⟩ | ⟨_, _, _, _, _, _, h⟩ | ⟨_, _, _, _, h⟩ := step_cases s
  · exact ⟨_, h⟩
  · rw [h]; exact exec_next i _
  · exact ⟨_, h⟩
  · exact ⟨_, h⟩

/-! ### The randomness source -/

/-- `Draw()`, said once: the value is the script's next, or else a free value; one value is consumed and counted,
and nothing else changes (44_analysis.md R194). -/
theorem draw_spec (s : State) :
    (∀ r rest, s.drawScript = r :: rest → s.nextDraw = r ∧ s.afterDraw.drawScript = rest) ∧
    (s.drawScript = [] → s.nextDraw = Config.draw s.drawn ∧ s.afterDraw.drawScript = []) ∧
    s.afterDraw = { s with drawScript := s.afterDraw.drawScript, drawn := s.drawn + 1, rndCnt := s.rndCnt + 1 } := by
  refine ⟨fun r rest h => ?_, fun h => ?_, rfl⟩
  · exact ⟨by unfold State.nextDraw; rw [h], by rw [State.afterDraw_drawScript, h]; rfl⟩
  · exact ⟨by unfold State.nextDraw; rw [h], by rw [State.afterDraw_drawScript, h]; rfl⟩

end Sys2Proof.Machine
end

