-- ==== Sys2Proof/Laws/PerInstr.lean ====
section
/-! SUPPORT. Statements made per command, one lemma per constructor. -/

namespace Sys2Proof.Laws.EncodesLegally

/-- The command's word has well-formed fields and decodes to the command (30_encoding.md R81, R84). -/
def Statement (i : Instr) : Prop := i.wf = true ∧ (cmdFields (encode i)).wf = true ∧ decode (encode i) = .ok i

theorem nop : Statement .nop := ⟨rfl, rfl, rfl⟩
theorem cap : Statement .cap := ⟨rfl, rfl, rfl⟩
theorem encLsb : Statement .encLsb := ⟨rfl, rfl, rfl⟩
theorem encLsb2 : Statement .encLsb2 := ⟨rfl, rfl, rfl⟩
theorem encRandom : Statement .encRandom := ⟨rfl, rfl, rfl⟩
theorem decLsb : Statement .decLsb := ⟨rfl, rfl, rfl⟩
theorem decLsb2 : Statement .decLsb2 := ⟨rfl, rfl, rfl⟩
theorem decRandom : Statement .decRandom := ⟨rfl, rfl, rfl⟩
theorem decAuto : Statement .decAuto := ⟨rfl, rfl, rfl⟩
theorem analyze : Statement .analyze := ⟨rfl, rfl, rfl⟩
theorem genpos : Statement .genpos := ⟨rfl, rfl, rfl⟩
theorem xmask : Statement .xmask := ⟨rfl, rfl, rfl⟩
theorem noise : Statement .noise := ⟨rfl, rfl, rfl⟩
theorem plaus : Statement .plaus := ⟨rfl, rfl, rfl⟩
theorem srst : Statement .srst := ⟨rfl, rfl, rfl⟩

end Sys2Proof.Laws.EncodesLegally
end

