-- ==== Sys2Proof/Laws/PosGen.lean ====
section
/-! SUPPORT. The laws of the channel order and of the position generator: what a candidate is, what the loop keeps,
and that cutting a request to `3*W*H` changes no result. -/

namespace Sys2Proof.Machine

/-! ### The channel order -/

theorem off_lt_iff (j px : Nat) : off j < 4 * px ↔ j < 3 * px := by unfold off; omega

theorem off_not_alpha (j : Nat) : (off j + 1) % 4 ≠ 0 := by unfold off; omega

theorem off_injective {i j : Nat} (h : off i = off j) : i = j := by unfold off at h; omega

/-- An RGB offset is the offset of exactly one channel index. -/
theorem exists_off {a : Nat} (h : a % 4 ≠ 3) : ∃ j, a = off j := ⟨3 * (a / 4) + a % 4, by unfold off; omega⟩

/-! ### Candidates -/

theorem lcgNext_lt (s : Nat) : lcgNext s < 233280 := Nat.mod_lt _ (by decide)

/-- The remap gives channel `k mod 3` of pixel `k div 3` (41_posgen.md R124). -/
theorem candidate_eq_off (N s : Nat) : candidate N s = off (scaledIndex N s) := by unfold candidate off; omega

theorem scaledIndex_lt {N s : Nat} (hN : 0 < N) (hs : s < 233280) : scaledIndex N s < N := by
  unfold scaledIndex
  rw [Nat.div_lt_iff_lt_mul (by decide)]
  rw [Nat.mul_comm N]
  exact Nat.mul_lt_mul_of_pos_right hs hN

/-! ### The loop -/

/-- What the loop keeps: distinct RGB offsets of the first `N` channel indices. -/
def GoodPositions (N : Nat) (P : List Nat) : Prop := P.Nodup ∧ ∀ o ∈ P, ∃ k < N, o = off k

theorem goodPositions_nil (N : Nat) : GoodPositions N [] := ⟨List.nodup_nil, by simp⟩

theorem GoodPositions.snoc {N s : Nat} {P : List Nat} (hP : GoodPositions N P) (hN : 0 < N)
    (hnew : candidate N (lcgNext s) ∉ P) : GoodPositions N (P ++ [candidate N (lcgNext s)]) := by
  refine ⟨?_, fun o ho => ?_⟩
  · rw [List.nodup_append]
    refine ⟨hP.1, List.nodup_singleton _, fun a ha b hb => ?_⟩
    rw [List.mem_singleton.1 hb]
    exact fun e => hnew (e ▸ ha)
  · rcases List.mem_append.1 ho with h | h
    · exact hP.2 o h
    · exact ⟨_, scaledIndex_lt hN (lcgNext_lt s), by rw [List.mem_singleton.1 h, candidate_eq_off]⟩

theorem GoodPositions.loop {N : Nat} (hN : 0 < N) (count steps : Nat) :
    ∀ (s : Nat) (P : List Nat), GoodPositions N P → GoodPositions N (genPosLoop N count steps s P) := by
  induction steps with
  | zero => exact fun _ _ hP => hP
  | succ steps ih =>
    intro s P hP
    unfold genPosLoop
    split
    · split
      next h => exact ih _ _ (hP.snoc hN h.1)
      · exact ih _ _ hP
    · exact hP

/-- With all `N` offsets accepted every candidate is rejected. -/
theorem GoodPositions.full {N : Nat} {P : List Nat} (hP : GoodPositions N P) (hlen : N ≤ P.length) {k : Nat}
    (hk : k < N) : off k ∈ P := by
  have hsub : P.toFinset ⊆ (Finset.range N).image off := by
    intro o ho
    obtain ⟨k, hk, rfl⟩ := hP.2 o (List.mem_toFinset.1 ho)
    exact Finset.mem_image_of_mem _ (Finset.mem_range.2 hk)
  have hcard : ((Finset.range N).image off).card ≤ P.toFinset.card := by
    rw [List.toFinset_card_of_nodup hP.1]
    exact le_trans Finset.card_image_le (by simpa using hlen)
  have := Finset.eq_of_subset_of_card_le hsub hcard
  rw [← List.mem_toFinset, this]
  exact Finset.mem_image_of_mem _ (Finset.mem_range.2 hk)

theorem genPosLoop_of_full {N : Nat} (hN : 0 < N) (count steps : Nat) :
    ∀ (s : Nat) (P : List Nat), GoodPositions N P → N ≤ P.length → genPosLoop N count steps s P = P := by
  induction steps with
  | zero => exact fun _ _ _ _ => rfl
  | succ steps ih =>
    intro s P hP hlen
    have hin : candidate N (lcgNext s) ∈ P := by
      rw [candidate_eq_off]
      exact hP.full hlen (scaledIndex_lt hN (lcgNext_lt s))
    unfold genPosLoop
    rw [if_neg (fun h : candidate N (lcgNext s) ∉ P ∧ _ => h.1 hin)]
    split
    · exact ih _ _ hP hlen
    · rfl

theorem genPosLoop_cut {N : Nat} (hN : 0 < N) (count steps : Nat) :
    ∀ (s : Nat) (P : List Nat), GoodPositions N P →
      genPosLoop N (min count N) steps s P = genPosLoop N count steps s P := by
  induction steps with
  | zero => exact fun _ _ _ => rfl
  | succ steps ih =>
    intro s P hP
    by_cases hfull : N ≤ P.length
    · rw [genPosLoop_of_full hN _ _ _ _ hP hfull, genPosLoop_of_full hN _ _ _ _ hP hfull]
    · have hiff : P.length < min count N ↔ P.length < count := by omega
      unfold genPosLoop
      simp only [hiff]
      split
      · split
        next h => exact ih _ _ (hP.snoc hN h.1)
        · exact ih _ _ hP
      · rfl

/-- Cutting a request to the number of RGB samples changes no result (log entry 11). -/
theorem genPos_cut {W H : Nat} (h : 0 < W * H) (count : Nat) :
    genPos W H (min count (3 * (W * H))) = genPos W H count := by
  unfold genPos
  rw [Nat.mul_assoc]
  exact genPosLoop_cut (by omega) count _ _ _ (goodPositions_nil _)

/-- The positions a command uses are those of `GenPos(W, H, count)`. -/
theorem state_genPos {s : State} (h : 0 < s.pixels) (count : Nat) :
    s.genPos count = genPos s.width.toNat s.height.toNat count := genPos_cut h count

theorem goodPositions_genPos {W H : Nat} (h : 0 < W * H) (count : Nat) :
    GoodPositions (3 * (W * H)) (genPos W H count) := by
  unfold genPos
  rw [Nat.mul_assoc]
  exact GoodPositions.loop (by omega) _ _ _ _ (goodPositions_nil _)

end Sys2Proof.Machine
end

