-- ==== Sys2Proof/Machine/HostNotation.lean ====
section
/-! DEFINITION. The host notation of 30_encoding.md R93 and the pseudo-operations of R94: functions that build lists
of host operations for `State.host`. -/

namespace Sys2Proof.Machine

/-- The register names of 10_state.md R23. -/
inductive RegName where
  | id | cmd | status | ctrl | width | height | payLen | keyLen | posCnt | capacity | total | lsbOnes | entropy
  | lsbBias | chiSq | prob | histMax | rndCnt
  deriving DecidableEq, Repr

/-- `slot(name)` (10_state.md R23). -/
def regSlot : RegName → Nat
  | .id => 0
  | .cmd => 1
  | .status => 2
  | .ctrl => 3
  | .width => 4
  | .height => 5
  | .payLen => 6
  | .keyLen => 7
  | .posCnt => 8
  | .capacity => 9
  | .total => 10
  | .lsbOnes => 11
  | .entropy => 12
  | .lsbBias => 13
  | .chiSq => 14
  | .prob => 15
  | .histMax => 16
  | .rndCnt => 17

/-- `WR name, value`. -/
def hostWR (r : RegName) (v : Word) : List HostOp := [.regWrite (regSlot r) v]

/-- `RD name`. -/
def hostRD (r : RegName) : List HostOp := [.regRead (regSlot r)]

/-- `LD S[i..], b0 b1 ...`. -/
def hostLD (sp : ByteSpace) (i : Nat) (bytes : List Byte) : List HostOp :=
  (List.range bytes.length).map fun k => .byteWrite sp (i + k) (bytes.getD k 0)

/-- `FILL S[a..b], pattern`. -/
def hostFILL (sp : ByteSpace) (a b : Nat) (pattern : List Byte) : List HostOp :=
  (List.range (b + 1 - a)).map fun k => .byteWrite sp (a + k) (pattern.getD (k % pattern.length) 0)

/-- `CMD mnemonic`: the write of the command's word to slot 1. -/
def hostCMD (i : Instr) : List HostOp := [.regWrite 1 (encode i)]

/-- `WAIT`: a command is one atomic step (20_memory.md R67), so the first read of `STATUS` shows `BUSY` = 0. -/
def hostWAIT : List HostOp := [.regRead 2]

/-- Reads of `S[i], ..., S[i+n-1]`. -/
def hostReadBytes (sp : ByteSpace) (i n : Nat) : List HostOp := (List.range n).map fun k => .byteRead sp (i + k)

def hostReadWords (sp : WordSpace) (i n : Nat) : List HostOp := (List.range n).map fun k => .wordRead sp (i + k)

/-- The image set-up: `WR WIDTH`, `WR HEIGHT`, `LD PIX`. -/
def hostImage (W H : BitVec 16) (image : List Byte) : List HostOp :=
  hostWR .width (W.setWidth 32) ++ hostWR .height (H.setWidth 32) ++ hostLD .pix 0 image

/-- The message set-up: `LD PAY[0..], message`, `WR PAYLEN, len`. -/
def hostMessage (message : List Byte) : List HostOp :=
  hostLD .pay 0 message ++ hostWR .payLen (BitVec.ofNat 32 message.length)

/-- The key set-up: with a password `LD KEY`, `WR KEYLEN`, `WR CTRL, 2`, else `WR CTRL, 0`. -/
def hostPassword : Option (List Byte) → List HostOp
  | some password => hostLD .key 0 password ++ hostWR .keyLen (BitVec.ofNat 32 password.length) ++ hostWR .ctrl 2
  | none => hostWR .ctrl 0

def encCommand : Codec → Instr
  | .lsb => .encLsb
  | .lsb2 => .encLsb2
  | .random => .encRandom

/-- The decode command of a scheme; none is `auto`. -/
def decCommand : Option Codec → Instr
  | some .lsb => .decLsb
  | some .lsb2 => .decLsb2
  | some .random => .decRandom
  | none => .decAuto

/-- `encode(scheme, message, [password])` (30_encoding.md R94). -/
def hostEncode (scheme : Codec) (W H : BitVec 16) (image message : List Byte) (password : Option (List Byte)) : List HostOp :=
  hostImage W H image ++ hostMessage message ++ hostPassword password ++ hostCMD (encCommand scheme) ++ hostWAIT ++ hostRD .status

/-- `decode(scheme, [password])` (30_encoding.md R94); `n` is how many characters the host then reads. -/
def hostDecode (scheme : Option Codec) (W H : BitVec 16) (image : List Byte) (password : Option (List Byte)) (n : Nat) :
    List HostOp :=
  hostImage W H image ++ hostPassword password ++ hostCMD (decCommand scheme) ++ hostWAIT ++ hostRD .status ++
    hostRD .payLen ++ hostReadBytes .pay 0 n

/-- `capacity(width, height)` (30_encoding.md R94). -/
def hostCapacity (W H : BitVec 16) : List HostOp :=
  hostWR .width (W.setWidth 32) ++ hostWR .height (H.setWidth 32) ++ hostCMD .cap ++ hostWAIT ++ hostRD .capacity

/-- `xorMask(text, key)` (30_encoding.md R94). -/
def hostXorMask (text key : List Byte) : List HostOp :=
  hostMessage text ++ hostLD .key 0 key ++ hostWR .keyLen (BitVec.ofNat 32 key.length) ++ hostCMD .xmask ++ hostWAIT ++
    hostReadBytes .pay 0 text.length

/-- `isValidMessage(text)` (30_encoding.md R94). -/
def hostIsValidMessage (text : List Byte) : List HostOp :=
  hostMessage text ++ hostCMD .plaus ++ hostWAIT ++ hostRD .status

/-- The position sequence for `count` (30_encoding.md R94); `n` is how many positions the host then reads. -/
def hostPositions (W H : BitVec 16) (count : Word) (n : Nat) : List HostOp :=
  hostWR .width (W.setWidth 32) ++ hostWR .height (H.setWidth 32) ++ hostWR .posCnt count ++ hostCMD .genpos ++ hostWAIT ++
    hostRD .posCnt ++ hostReadWords .pos 0 n

/-- `analyze` (30_encoding.md R94): slots 10 to 16 and `HIST`. -/
def hostAnalyze (W H : BitVec 16) (image : List Byte) : List HostOp :=
  hostImage W H image ++ hostCMD .analyze ++ hostWAIT ++ (List.range 7).map (fun k => .regRead (10 + k)) ++
    hostReadWords .hist 0 Config.histSize

end Sys2Proof.Machine
end

