-- ==== Sys2Proof/Tests/Slice0.lean ====
section
/-! SUPPORT. The model's own tests. Expected values come from spec/: the vectors of 95_test_vectors.md (their id
stands in the comment), the encodings of 30_encoding.md, or the rule named. Then a witness for the hypotheses of every
statement that has some. -/

namespace Sys2Proof.Tests

open Sys2Proof.Machine Sys2Proof.Claims

/-! ### Helpers -/

/-- The state an outcome leaves. -/
def after : Host.Outcome State Fault Refusal → Option State
  | .next t => some t
  | .fault _ => none
  | .refused _ => none

/-- A machine with `PIX_BYTES` = 40000 and an image of `W` by `H` pixels whose listed samples are `pix`. -/
def image (W H : BitVec 16) (pix : Memory 8) : State :=
  { State.reset with width := W, height := H, pix := pix, pixSize := 9999 }

/-- The state with a payload. -/
def withPay (bytes : List Byte) (s : State) : State :=
  { s with pay := memStore [] 0 bytes, payLen := BitVec.ofNat 16 bytes.length }

/-- The state with a key. -/
def withKey (bytes : List Byte) (s : State) : State :=
  { s with key := memStore [] 0 bytes, keyLen := BitVec.ofNat 16 bytes.length }

/-- The state with the cipher on. -/
def withCipher (s : State) : State := { s with ctrl := { ie := false, cipherEn := true } }

/-- The state with scripted draws. -/
def withDraws (draws : List DrawWord) (s : State) : State := { s with drawScript := draws }

/-- "HI" (30_encoding.md R93). -/
def hi : List Byte := [0x48#8, 0x49#8]

/-- A 10 by 10 image that is zero but for the six samples of "HI" in scheme `lsb`: V-EN1 on zeros. -/
def hiImage : State := image 10 10 [(40, 1), (44, 1), (48, 1), (54, 1), (58, 1), (62, 1)]

/-- A 5 by 3 image whose randomized stream is the frame of "A": 40 of its 45 positions, prefix bit 31 and the
character's bits 33 and 39 set (41_posgen.md R123 gives the offsets). -/
def randImage : State :=
  let P := genPos 5 3 40
  image 5 3 (memStore (memStore (memStore [] (P.getD 31 0) [1]) (P.getD 33 0) [1]) (P.getD 39 0) [1])

/-! ### WellFormed refuses an ill-formed term, one for each check -/

theorem test_wf_reserved_bits : ({ rsv := 1, scheme := 0, op := 0 } : CmdFields).wf = false := by decide
theorem test_wf_reserved_op : ({ rsv := 0, scheme := 0, op := 9 } : CmdFields).wf = false := by decide
theorem test_wf_scheme_on_nop : ({ rsv := 0, scheme := 1, op := 0 } : CmdFields).wf = false := by decide
theorem test_wf_auto_on_encode : ({ rsv := 0, scheme := 3, op := 2 } : CmdFields).wf = false := by decide
theorem test_wf_accepts_dec_auto : ({ rsv := 0, scheme := 3, op := 3 } : CmdFields).wf = true := by decide
theorem test_wf_instr : Instr.decAuto.wf = true := by decide

/-! ### Decoding: `RSV` 31:6, `SCHEME` 5:4, `OP` 3:0 written out (30_encoding.md R80, R82, R83) -/

theorem test_decode_nop : decode 0b00000000000000000000000000_00_0000#32 = .ok .nop := by decide
theorem test_decode_cap : decode 0b00000000000000000000000000_00_0001#32 = .ok .cap := by decide
theorem test_decode_encLsb : decode 0b00000000000000000000000000_00_0010#32 = .ok .encLsb := by decide
theorem test_decode_encLsb2 : decode 0b00000000000000000000000000_01_0010#32 = .ok .encLsb2 := by decide
theorem test_decode_encRandom : decode 0b00000000000000000000000000_10_0010#32 = .ok .encRandom := by decide
theorem test_decode_decLsb : decode 0b00000000000000000000000000_00_0011#32 = .ok .decLsb := by decide
theorem test_decode_decLsb2 : decode 0b00000000000000000000000000_01_0011#32 = .ok .decLsb2 := by decide
theorem test_decode_decRandom : decode 0b00000000000000000000000000_10_0011#32 = .ok .decRandom := by decide
theorem test_decode_decAuto : decode 0b00000000000000000000000000_11_0011#32 = .ok .decAuto := by decide
theorem test_decode_analyze : decode 0b00000000000000000000000000_00_0100#32 = .ok .analyze := by decide
theorem test_decode_genpos : decode 0b00000000000000000000000000_00_0101#32 = .ok .genpos := by decide
theorem test_decode_xmask : decode 0b00000000000000000000000000_00_0110#32 = .ok .xmask := by decide
theorem test_decode_noise : decode 0b00000000000000000000000000_00_0111#32 = .ok .noise := by decide
theorem test_decode_plaus : decode 0b00000000000000000000000000_00_1000#32 = .ok .plaus := by decide
theorem test_decode_srst : decode 0b00000000000000000000000000_00_1111#32 = .ok .srst := by decide

/-- V-SY3, V-SY4: a scheme on `NOP`, the reserved codes, a reserved bit, a scheme on `CAP`. -/
theorem test_decode_illegal : [0x10#32, 0x9#32, 0xE#32, 0x40#32, 0x80000002#32, 0x31#32].map decode
    = List.replicate 6 (.error .illegalCommand) := by decide

/-- V-SY5. -/
theorem test_decode_auto_on_encode : decode 0x32#32 = .error .autoOnEncode := by decide

theorem test_table_word : decodeTableWord 32 0x33 = some .decAuto := by decide
theorem test_table_word_long : decodeTableWord 40 0x33 = none := by decide

/-! ### Steps and the host port -/

/-- The first step after reset runs the word placed for it. -/
theorem test_fetch_runs : (after (step (State.reset.withFetchWord 32 0x8))).map (·.status)
    = some { busy := false, done := true, error := none, plaus := false, schemeUsed := .lsb } := by decide

/-- V-SY3 as a step: `STATUS` = 0x00040016. -/
theorem test_illegal_status : (after (step (State.reset.withFetchWord 32 0x10))).map (fun t => statusWord t.status)
    = some 0x00040016#32 := by decide

/-- V-SY6: the host clears a report. -/
theorem test_status_clear : (after (step { State.reset with
      status := { busy := false, done := true, error := some .overCapacity, plaus := false, schemeUsed := .lsb },
      host := hostWR .status 2 })).map (fun t => statusWord t.status) = some 0#32 := by decide

/-- V-SY7: `ID`. -/
theorem test_read_id : (after (step { State.reset with host := hostRD .id })).map (·.lastRead)
    = some (some 0x53544731#32) := by decide

/-- 10_state.md R28: bits 31:16 of `WIDTH` are reserved. -/
theorem test_width_reserved : (after (step { State.reset with host := hostWR .width 0xFFFF000A#32 })).map
    (fun t => regReadValue t 4) = some 10#32 := by decide

/-- 20_memory.md R61: a write outside the space has no effect. -/
theorem test_write_outside : (after (step { State.reset with host := [.byteWrite .pay 10000 1] })).map (·.pay)
    = some [] := by decide

/-! ### Commands -/

/-- V-SY1. -/
theorem test_nop : (after (exec .nop State.reset)).map (fun t => statusWord t.status) = some 0x2#32 := by decide

/-- V-CP3: 9 by 9. -/
theorem test_cap_negative : (after (exec .cap (image 9 9 []))).map (·.capacity) = some 0xFFFFFFFE#32 := by decide

/-- V-CP12: 65535 by 65535. -/
theorem test_cap_largest : (after (exec .cap (image 65535 65535 []))).map (·.capacity) = some 0x5FFF3FE0#32 := by decide

/-- V-EN1 on zeros: the six samples of "HI". -/
theorem test_encLsb : (after (exec .encLsb (withPay hi (image 10 10 [])))).map (·.pix) = some hiImage.pix := by
  decide +kernel

/-- S4: length 6 exceeds the capacity 5; `STATUS` = 0x00010026. -/
theorem test_encLsb_over : (after (exec .encLsb (withPay [1, 2, 3, 4, 5, 6] (image 10 10 [])))).map
    (fun t => (statusWord t.status, t.pix)) = some (0x00010026#32, []) := by decide +kernel

/-- V-EN3. -/
theorem test_encLsb2 : (after (exec .encLsb2 (withPay [0x41] (image 10 10 [])))).map (·.pix)
    = some [(20, 1), (21, 1), (25, 1)] := by decide +kernel

/-- V-ER4. -/
theorem test_encLsb2_key : (after (exec .encLsb2 { withCipher (withPay [1] (image 10 10 [])) with keyLen := 257 })).map
    (·.status.error) = some (some .keyTooLong) := by decide +kernel

/-- V-EN5. -/
theorem test_encRandom : (after (exec .encRandom (withPay [0x41] (image 10 10 [])))).map (fun t => (t.pix, t.posCnt))
    = some ([(100, 1), (208, 1), (360, 1)], 40#32) := by decide +kernel

/-- V-DE1 on zeros. -/
theorem test_decLsb : (after (exec .decLsb hiImage)).map (fun t => (t.pay, t.payLen, statusWord t.status))
    = some ([(0, 0x48), (1, 0x49)], 2, 0x2#32) := by decide +kernel

/-- V-ER11. -/
theorem test_decLsb_zero : (after (exec .decLsb (withPay [7] (image 10 10 [])))).map
    (fun t => (t.status.error, t.payLen, t.pay)) = some (some .lengthZero, 0, [(0, 7)]) := by decide +kernel

/-- V-EN3 read back. -/
theorem test_decLsb2 : (after (exec .decLsb2 (image 10 10 [(20, 1), (21, 1), (25, 1)]))).map
    (fun t => (t.pay, t.payLen, statusWord t.status)) = some ([(0, 0x41)], 1, 0x102#32) := by decide +kernel

/-- V-DE4: a wrong key is no error; the frame holds 03 02 and the key is "J". -/
theorem test_decLsb2_wrong_key : (after (exec .decLsb2 (withKey [0x4A] (withCipher (image 10 10
      [(20, 2), (25, 3), (30, 2)]))))).map (·.pay) = some [(0, 0x49), (1, 0x48)] := by decide +kernel

/-- V-DE12: 3 by 3, 27 positions. -/
theorem test_decRandom_short : (after (exec .decRandom (image 3 3 []))).map (fun t => (t.status.error, t.posCnt))
    = some (some .prefixExhausted, 27#32) := by decide +kernel

/-- V-AU1 on zeros. -/
theorem test_decAuto : (after (exec .decAuto hiImage)).map (fun t => (t.pay, statusWord t.status, t.posCnt))
    = some ([(0, 0x48), (1, 0x49)], 0x2#32, 0#32) := by decide +kernel

/-- 42_codecs.md R159 on the 4 by 3 zero image: every trial reads prefix 0 (`AUTO_EXHAUSTED`, V-AU7's outcome). -/
theorem test_decAuto_exhausted : (after (exec .decAuto (image 4 3 []))).map
    (fun t => (statusWord t.status, t.payLen, t.posCnt)) = some (0x00030046#32, 0, 36#32) := by decide +kernel

/-- The image of V-AN1. -/
def anImage : State := image 2 2 [(0, 10), (1, 11), (2, 12), (3, 255), (4, 10), (5, 11), (6, 13), (7, 255), (8, 10), (9, 10),
  (10, 12), (11, 255), (12, 200), (13, 201), (14, 203), (15, 255)]

/-- V-AN2. -/
theorem test_analyze : (after (exec .analyze (withDraws [0x8000, 0x4000] anImage))).map (fun t =>
      [t.total.toNat, t.lsbOnes.toNat, t.entropy.toNat, t.lsbBias.toNat, t.chiSq.toNat, t.prob.toNat, t.histMax.toNat,
        t.rndCnt.toNat]) = some [12, 5, 169408, 10922, 2730666, 3604480, 4, 2] := by decide +kernel

/-- V-AN1: the histogram. -/
theorem test_analyze_hist : (after (exec .analyze (withDraws [0, 0] anImage))).map (·.hist)
    = some [(10, 4), (11, 2), (12, 2), (13, 1), (200, 1), (201, 1), (203, 1)] := by decide +kernel

/-- V-PG2. -/
theorem test_genpos : (after (exec .genpos { image 10 10 [] with posCnt := 8 })).map (fun t => (memSlice t.pos 0 9, t.posCnt))
    = some ([164, 5, 140, 88, 105, 81, 288, 9, 0], 8) := by decide +kernel

/-- V-PG6: `POSCNT` = 13 on 2 by 2. -/
theorem test_genpos_short : (after (exec .genpos { image 2 2 [] with posCnt := 13 })).map
    (fun t => (memSlice t.pos 0 13, statusWord t.status, t.posCnt))
    = some ([5, 0, 2, 4, 10, 6, 8, 14, 12, 9, 1, 13, 0], 0x00030036#32, 12) := by decide +kernel

/-- V-XM1: "HELLO" with "KEY". -/
theorem test_xmask : (after (exec .xmask (withKey [0x4B, 0x45, 0x59] (withPay [0x48, 0x45, 0x4C, 0x4C, 0x4F] State.reset)))).map
    (fun t => memSlice t.pay 0 5) = some [0x03, 0x00, 0x15, 0x07, 0x0A] := by decide +kernel

/-- V-XM9: the first test wins. -/
theorem test_xmask_order : (after (exec .xmask { State.reset with payLen := 10001 })).map (·.status.error)
    = some (some .missingPassword) := by decide

/-- V-NO1. -/
theorem test_noise : (after (exec .noise (withDraws [0x0000, 0x9000, 0x2000] (image 2 1
      [(1, 0x80), (2, 0xFF), (3, 0x40), (4, 0x10), (5, 0x20), (6, 0x30), (7, 0x40)])))).map
    (fun t => (memSlice t.pix 0 8, t.rndCnt)) = some ([0x01, 0x81, 0xFF, 0x40, 0x10, 0x20, 0x30, 0x40], 3) := by decide +kernel

/-- V-PL1: exactly 80 percent. -/
theorem test_plaus_at_limit : (after (exec .plaus (withPay [0x41, 0x41, 0x41, 0x41, 0x00] State.reset))).map
    (fun t => statusWord t.status) = some 0x0000000A#32 := by decide +kernel

/-- V-PL2: 60 percent. -/
theorem test_plaus_below : (after (exec .plaus (withPay [0x41, 0x41, 0x41, 0x00, 0x00] State.reset))).map
    (fun t => statusWord t.status) = some 0x00000002#32 := by decide +kernel

/-- V-SY2. -/
theorem test_srst : (after (exec .srst { image 10 0 [(3, 4)] with
      ctrl := { ie := true, cipherEn := true }, rndCnt := 7,
      status := { busy := false, done := true, error := none, plaus := true, schemeUsed := .lsb2 } })).map
    (fun t => ([statusWord t.status, ctrlWord t.ctrl, t.rndCnt], t.width, t.pix)) = some ([0, 0, 0], 0, [(3, 4)]) := by
  decide

/-! ### Witnesses: a state and operands that meet all the hypotheses of each statement that has some -/

/-- Clauses of R85: a reserved bit, both ends of the reserved codes, a scheme on the operations next to `ENC`, `DEC`. -/
theorem witness_IllegalWordOnlyReports : State.reset.status.busy = false ∧
    (0x40#32).toNat / 64 ≠ 0 ∧ (9 ≤ (9#32).toNat % 16 ∧ (0xE#32).toNat % 16 ≤ 14) ∧
    (0x11#32).toNat / 16 % 4 ≠ 0 ∧ (0x11#32).toNat % 16 ∈ [0, 1, 4, 5, 6, 7, 8, 15] ∧
    (0x3F#32).toNat / 16 % 4 ≠ 0 ∧ (0x3F#32).toNat % 16 ∈ [0, 1, 4, 5, 6, 7, 8, 15] := by decide

theorem witness_AutoOnEncodeOnlyReports : ∃ (s : State) (rest : List HostOp),
    s.status.busy = false ∧ s.host = .regWrite 1 0x00000032#32 :: rest := ⟨State.reset.withFetchWord 32 0x32, [], rfl, rfl⟩

theorem witness_StepRunsTheIssuedCommand :
    (∃ (s : State) (w : Word) (rest : List HostOp) (i : Instr), s.host = .regWrite 1 w :: rest ∧ s.status.busy = false ∧
      decode w = .ok i) ∧
    (∃ (s : State) (w : Word) (rest : List HostOp) (r : Reject), s.host = .regWrite 1 w :: rest ∧ s.status.busy = false ∧ decode w = .error r) ∧
    (∃ (s : State) (w : Word) (rest : List HostOp), s.host = .regWrite 1 w :: rest ∧ s.status.busy = true) :=
  ⟨⟨State.reset.withFetchWord 32 0, _, _, .nop, rfl, rfl, rfl⟩, ⟨State.reset.withFetchWord 32 9, _, _, .illegalCommand, rfl, rfl, rfl⟩,
    ⟨{ State.reset.accept with host := [.regWrite 1 0] }, _, _, rfl, rfl⟩⟩

theorem witness_IdleBlockWaits : State.reset.host = [] := rfl

/-- The last element of `PAY` and the first index outside it. -/
theorem witness_HostWriteReplacesOneElement : State.reset.status.busy = false ∧
    9999 < byteSize State.reset .pay ∧ byteSize State.reset .pay ≤ 10000 := by decide

/-- The last element of `KEY`, the ends of the two word spaces, and a register read. -/
theorem witness_HostReadReturnsTheElement :
    (∃ s : State, s.status.busy = false ∧ s.host = [.regRead 17]) ∧
    ∃ s : State, s.status.busy = false ∧ s.host = [.byteRead .key 255] ∧ 255 < byteSize s .key ∧ ¬(256 < byteSize s .key) ∧ 80031 < wordSize .pos ∧ ¬(256 < wordSize .hist) :=
  ⟨⟨{ State.reset with host := [.regRead 17] }, rfl, rfl⟩,
    { State.reset with host := [.byteRead .key 255] }, rfl, rfl, by decide, by decide, by decide, by decide⟩

theorem witness_AccessWhileBusyChangesNothing : ∃ (s : State) (op : HostOp) (rest : List HostOp),
    s.status.busy = true ∧ s.host = op :: rest ∧ (∀ u, op ≠ .hardReset u) ∧ op = .regRead 2 :=
  ⟨{ State.reset.accept with host := [.regRead 2] }, _, _, rfl, rfl, fun _ => by simp, rfl⟩

/-- Slots at the ends of the ranges: 0, 3, 4, 7, 8, 9. -/
theorem witness_RegisterWriteIsReadBack : ∀ i ∈ [0, 2, 3, 4, 7, 8, 9, 17, 18, 63, 64], ∃ (s : State) (rest : List HostOp),
    s.status.busy = false ∧ i ≠ 1 ∧ s.host = .regWrite i 0xFFFFFFFF#32 :: rest := by
  intro i hi
  exact ⟨{ State.reset with host := [.regWrite i 0xFFFFFFFF#32] }, [], rfl, by rintro rfl; simp at hi, rfl⟩

theorem witness_StatusWordAndItsClearing : ∃ (s : State) (rest : List HostOp),
    s.status.busy = false ∧ s.host = .regWrite 2 2#32 :: rest ∧ (2#32).toNat / 2 % 2 = 1 ∧ (1#32).toNat / 2 % 2 ≠ 1 :=
  ⟨{ State.reset with host := [.regWrite 2 2#32] }, [], rfl, rfl, by decide, by decide⟩

theorem witness_InterruptLineFollowsDone :
    (∃ (s : State) (rest : List HostOp), s.status.busy = false ∧ s.host = .regWrite 1 9#32 :: rest ∧ s.ctrl.ie = true ∧
      decode 9#32 ≠ .ok .srst) ∧
    (∃ (s : State) (rest : List HostOp), s.status.busy = false ∧ s.host = .regWrite 2 2#32 :: rest ∧ (2#32).getLsbD 1 = true) ∧
    (∃ (s : State) (rest : List HostOp), s.status.busy = false ∧ s.host = .regWrite 3 2#32 :: rest ∧ (2#32).getLsbD 0 = false) :=
  ⟨⟨{ State.reset with ctrl := { ie := true, cipherEn := false }, host := [.regWrite 1 9] }, [], rfl, rfl, rfl, by decide⟩,
    ⟨{ State.reset with host := [.regWrite 2 2#32] }, [], rfl, rfl, by decide⟩,
    ⟨{ State.reset with host := [.regWrite 3 2#32] }, [], rfl, rfl, by decide⟩⟩

theorem witness_ResetZeroesTheRegisters : ∃ (s : State) (u : PowerUp) (rest : List HostOp), s.host = .hardReset u :: rest :=
  ⟨{ State.reset with host := [.hardReset { pix := [], pay := [(0, 1)], key := [], pos := [], hist := [] }] }, _, _, rfl⟩

/-- `ErrorsOnlyFromTheTable`, `FailureLeavesTheDataAlone`. An erring command: `ENC.random` with no image, and `DEC.lsb` past its checks. -/
theorem witness_errors :
    (∃ s t, exec .encRandom s = .next t ∧ t.status.error = some .noImage ∧ CmdError.noImage.kind = .invalidInput) ∧
    (∃ s t, exec .decLsb s = .next t ∧ t.status.error = some .prefixExhausted ∧ CmdError.prefixExhausted.kind ≠ .invalidInput ∧
      Instr.decLsb ∈ decCommands) :=
  ⟨⟨State.reset, _, rfl, by decide, by decide⟩, ⟨image 3 3 [], _, rfl, by decide, by decide, by decide⟩⟩

/-- `StatusIsNeverAnInput`, `ResultsAreNeverAnInput`, `CommandsKeepToTheirWriteSets`: the hypothesis `exec i s = .next t`
is met by every command in some state. -/
theorem witness_exec (i : Instr) : ∃ s t, exec i s = .next t := ⟨State.reset, exec_next i State.reset⟩

/-- `AlphaAndBeyondAreNeverWritten`, `AlphaAndBeyondAreNeverRead`: the first alpha sample, and the first element beyond the image. -/
theorem witness_AlphaAndBeyond : 3 % 4 = 3 ∧ 4 * area (image 2 2 []) ≤ 16 ∧
    (∀ a, a % 4 ≠ 3 → a < 4 * area (image 2 2 []) → memRead [(3, 1), (16, 2)] a = memRead (image 2 2 []).pix a) := by
  refine ⟨by decide, by decide, fun a h1 h2 => ?_⟩
  have h3 : a < 16 := h2
  have : (3 : Nat) ≠ a := by omega
  have : (16 : Nat) ≠ a := by omega
  simp [memRead, image, State.reset, unwritten, *]

/-- The invariant holds in the state after reset, so its step statement has a start. -/
theorem witness_StepKeepsTheInvariant : State.reset.Inv ∧ step State.reset = .next State.reset := by
  refine ⟨?_, rfl⟩
  constructor <;> first | exact wf_nil _ | decide

/-- `XMASK`: its last admitted and first refused operands. -/
theorem witness_XmaskMasksThePayload :
    (∃ s : State, s.keyLen.toNat = 0) ∧ (∃ s : State, 256 < s.keyLen.toNat) ∧
    (∃ s : State, 0 < s.keyLen.toNat ∧ s.keyLen.toNat ≤ 256 ∧ 10000 < s.payLen.toNat) ∧ (∃ s : State, s.XmaskReady) :=
  ⟨⟨State.reset, rfl⟩, ⟨{ State.reset with keyLen := 257 }, by decide⟩,
    ⟨{ State.reset with keyLen := 256, payLen := 10001 }, by decide⟩, ⟨{ State.reset with keyLen := 256, payLen := 10000 }, by decide⟩⟩

theorem witness_MaskingTwiceRestores : ∃ s t : State, s.XmaskReady ∧ exec .xmask s = .next t :=
  ⟨{ State.reset with keyLen := 1, payLen := 1 }, _, by decide, rfl⟩

/-- The image tests (`GenposStoresTheSequence`, `AnalyzeRecordsTheSnapshot`, `AnalyzeResultsStayInRange`,
`NoiseNudgesTheSelectedPixels` and every refusal statement): no pixel, one pixel too many, exactly full. -/
theorem witness_image : (∃ s : State, area s = 0) ∧ (∃ s : State, 0 < area s ∧ s.pixBytes < 4 * area s) ∧
    (∃ s : State, s.HasImage ∧ 4 * area s = s.pixBytes) :=
  ⟨⟨State.reset, rfl⟩, ⟨{ image 2 1 [] with pixSize := 0 }, by decide⟩, ⟨{ image 2 1 [] with pixSize := 1 }, by decide⟩⟩

theorem witness_GenposStoresTheSequence : (∃ s : State, s.HasImage ∧ 80032 < s.posCnt.toNat) ∧
    (∃ s : State, s.HasImage ∧ s.posCnt.toNat ≤ 80032 ∧ s.posCnt.toNat ≤ s.reach) ∧
    (∃ s : State, s.HasImage ∧ s.posCnt.toNat ≤ 80032 ∧ ¬(s.posCnt.toNat ≤ s.reach)) :=
  ⟨⟨{ image 2 2 [] with posCnt := 80033 }, by decide⟩, ⟨{ image 2 2 [] with posCnt := 12 }, by decide⟩,
    ⟨{ image 2 2 [] with posCnt := 13 }, by decide⟩⟩

/-- `EveryReachablePositionIsFound`, `PositionsAreDistinctColourSamples`, `PositionsArePrefixStable`: sizes on the two sides of `3*W*H` = 233280. -/
theorem witness_EveryReachablePositionIsFound : 0 < 1 * 1 ∧ 0 < 233280 ∧ 233280 ≤ 233280 ∧ 233280 < 233283 := by decide

/-- `UnframeInvertsFrame`, `FrameBitsFollowTheRule`: the shortest and the longest message. -/
theorem witness_UnframeInvertsFrame : 1 ≤ 10000 ∧ 10000 ≤ 10000 ∧ 32 + 8 * 10000 ≤ 80032 := by decide

/-- The refusals of `EncChecks`, each on its boundary. -/
theorem witness_EncodeRefusesInOrder : Instr.encLsb ∈ encCommands ∧
    (∃ s : State, s.HasImage ∧ s.payLen.toNat = 0) ∧
    (∃ s : State, s.HasImage ∧ 0 < s.payLen.toNat ∧ s.ctrl.cipherEn = true ∧ s.keyLen.toNat = 0) ∧
    (∃ s : State, s.HasImage ∧ 0 < s.payLen.toNat ∧ s.ctrl.cipherEn = true ∧ 256 < s.keyLen.toNat) ∧
    (∃ s : State, s.HasImage ∧ 0 < s.payLen.toNat ∧ s.KeyUsable ∧ (3 * area s / 8 : Nat) - 32 < (s.payLen.toNat : Int)) ∧
    (∃ s : State, s.HasImage ∧ 0 < s.payLen.toNat ∧ s.KeyUsable ∧ (s.payLen.toNat : Int) ≤ (3 * area s / 8 : Nat) - 32 ∧
      10000 < s.payLen.toNat) :=
  ⟨by decide, ⟨image 10 10 [], by decide⟩, ⟨withCipher { image 10 10 [] with payLen := 1 }, by decide⟩,
    ⟨withCipher { image 10 10 [] with payLen := 1, keyLen := 257 }, by decide⟩, ⟨{ image 10 10 [] with payLen := 6 }, by decide⟩,
    ⟨{ image 1 26755 [] with payLen := 10001, pixSize := 26754 }, by decide⟩⟩

/-- `EncLsbWritesOneBitPerSample`, `EncLsb2WritesTwoBitsPerSample`, `EncRandomWritesAtThePositions`,
`LongRandomMessageCannotBeDecoded`: `EncReady` at the capacity of the 10 by 10 image, and with 121 and 122 characters, and with the longest
key in use. -/
theorem witness_EncReady : { image 10 10 [] with payLen := 5 }.EncReady ∧ { image 100 100 [] with payLen := 121 }.EncReady ∧
    { image 100 100 [] with payLen := 122 }.EncReady ∧ (withCipher { image 10 10 [] with payLen := 5, keyLen := 256 }).EncReady := by
  decide

/-- The refusals of `DecChecks`. -/
theorem witness_DecodeRefusesInOrder : Instr.decAuto ∈ decCommands ∧
    (∃ s : State, s.HasImage ∧ s.ctrl.cipherEn = true ∧ s.keyLen.toNat = 0) ∧
    (∃ s : State, s.HasImage ∧ s.ctrl.cipherEn = true ∧ 256 < s.keyLen.toNat) :=
  ⟨by decide, ⟨withCipher (image 10 10 []), by decide⟩, ⟨withCipher { image 10 10 [] with keyLen := 257 }, by decide⟩⟩

/-- A decoder's errors: 27 samples; prefix 0; prefix 32768; prefix 1 in 36 samples. -/
theorem witness_DecodeFailsInOrder : Instr.decLsb ∈ schemeDecCommands ∧
    ((image 3 3 []).DecReady ∧ available .decLsb (image 3 3 []) < 32) ∧
    ((image 10 10 []).DecReady ∧ 32 ≤ available .decLsb (image 10 10 []) ∧ decodedPrefix .decLsb (image 10 10 []) = 0) ∧
    ((image 10 10 [(21, 1)]).DecReady ∧ 10000 < decodedPrefix .decLsb (image 10 10 [(21, 1)])) ∧
    ((image 4 3 [(41, 1)]).DecReady ∧ 0 < decodedPrefix .decLsb (image 4 3 [(41, 1)]) ∧
      decodedPrefix .decLsb (image 4 3 [(41, 1)]) ≤ 10000 ∧
      available .decLsb (image 4 3 [(41, 1)]) < 32 + 8 * decodedPrefix .decLsb (image 4 3 [(41, 1)])) := by
  decide +kernel

/-- Each scheme's frame of one or two characters; the 5 by 3 image holds 45 positions for the 40 needed. -/
theorem witness_DecodeDeliversAValidFrame :
    (hiImage.DecReady ∧ decodedPrefix .decLsb hiImage = 2 ∧ 48 ≤ available .decLsb hiImage) ∧
    ((image 10 10 [(20, 1), (21, 1), (25, 1)]).DecReady ∧ decodedPrefix .decLsb2 (image 10 10 [(20, 1), (21, 1), (25, 1)]) = 1 ∧
      40 ≤ available .decLsb2 (image 10 10 [(20, 1), (21, 1), (25, 1)])) ∧
    (randImage.DecReady ∧ decodedPrefix .decRandom randImage = 1 ∧ 40 ≤ available .decRandom randImage) := by
  have h : decPositions randImage = genPos 5 3 45 := (genPos_cut (W := 5) (H := 3) (by decide) 1000).symm
  refine ⟨by decide +kernel, by decide +kernel, by decide, ?_, ?_⟩
  · simp only [decodedPrefix, readBit, h]; decide +kernel
  · simp only [available, h]; decide +kernel

/-- `AutoDeliversAPlausibleSequentialMessage`: "HI" is two printable characters of two. -/
theorem witness_AutoDeliversAPlausibleSequentialMessage : hiImage.DecReady ∧
    4 * decodedPrefix .decLsb hiImage ≤ 5 * ((List.range (decodedPrefix .decLsb hiImage)).countP fun k =>
      (32 ≤ decodedChar .decLsb hiImage k && decodedChar .decLsb hiImage k ≤ 126) || decodedChar .decLsb hiImage k = 10 ||
        decodedChar .decLsb hiImage k = 13) := by decide +kernel

/-- The four ways of the chain: a plausible first trial; an absent first and a plausible second; a delivering third; none. -/
theorem witness_AutoFollowsTheFallbackChain :
    (∃ s : State, s.DecReady ∧ ∃ B, decodeSeq1 s = .ok B ∧ plausible B = true) ∧
    (∃ s : State, s.DecReady ∧ decodeSeq1 s = .error .lengthOverMax ∧ ∃ B, decodeSeq2 s = .ok B ∧ plausible B = true) ∧
    (∃ s : State, s.DecReady ∧ decodeSeq1 s = .error .lengthOverMax ∧ decodeSeq2 s = .error .lengthOverMax ∧
      decodeRand s = .ok [0x41]) ∧
    (∃ s : State, s.DecReady ∧ decodeSeq1 s = .error .lengthZero ∧ decodeSeq2 s = .error .lengthZero ∧
      decodeRand s = .error .lengthZero) :=
  ⟨⟨hiImage, by decide, [0x48, 0x49], by decide +kernel, by decide⟩,
    ⟨image 10 10 [(20, 1), (21, 1), (25, 1)], by decide, by decide +kernel, [0x41], by decide +kernel, by decide⟩,
    ⟨randImage, by decide, by decide +kernel, by decide +kernel, by decide +kernel⟩,
    ⟨image 4 3 [], by decide, by decide +kernel, by decide +kernel, by decide +kernel⟩⟩

/-- The round trips: the decode right after the encode. -/
theorem witness_round_trips :
    (∃ s t t' : State, s.EncReady ∧ s.payLen.toNat ≤ 121 ∧ exec .encRandom s = .next t ∧ t'.pix = t.pix ∧
      t'.width = s.width ∧ t'.height = s.height ∧ t'.pixSize = s.pixSize ∧ t'.ctrl.cipherEn = s.ctrl.cipherEn ∧
      t'.keyLen = s.keyLen ∧ (∀ k < 256, memRead t'.key k = memRead s.key k)) ∧
    (∃ s t t' : State, s.EncReady ∧ exec .encLsb2 s = .next t ∧ t'.pix = t.pix ∧
      t'.width = s.width ∧ t'.height = s.height ∧ t'.pixSize = s.pixSize ∧ t'.ctrl.cipherEn = s.ctrl.cipherEn ∧
      t'.keyLen = s.keyLen ∧ (∀ k < 256, memRead t'.key k = memRead s.key k)) := by
  obtain ⟨t, ht⟩ := exec_next .encRandom { image 10 10 [] with payLen := 5 }
  obtain ⟨u, hu⟩ := exec_next .encLsb2 { image 10 10 [] with payLen := 5 }
  exact ⟨⟨_, t, { image 10 10 [] with pix := t.pix, payLen := 5 }, by decide, by decide, ht, rfl, rfl, rfl, rfl, rfl, rfl, fun _ _ => rfl⟩,
    ⟨_, u, { image 10 10 [] with pix := u.pix, payLen := 5 }, by decide, hu, rfl, rfl, rfl, rfl, rfl, rfl, fun _ _ => rfl⟩⟩

/-- `EntropyIsTheLargestExponent`, `EntropyIsTheFloorOfShannonEntropy`. -/
theorem witness_EntropyIsTheLargestExponent : ([7] : List Byte) ≠ [] := by decide

/-- Two runs whose images differ in an alpha sample only and whose draws differ. -/
theorem witness_AnalyzeIsReproducible : ∃ s s' t t' : State, s.HasImage ∧ s'.HasImage ∧ s'.width = s.width ∧ s'.height = s.height ∧
    (∀ a, a % 4 ≠ 3 → a < 4 * area s → memRead s'.pix a = memRead s.pix a) ∧
    exec .analyze s = .next t ∧ exec .analyze s' = .next t' ∧ drawAt s 0 ≠ drawAt s' 0 := by
  refine ⟨withDraws [1, 2] (image 1 1 []), withDraws [3, 4] (image 1 1 [(3, 9)]), _, _, by decide, by decide, rfl, rfl,
    fun a h1 _ => ?_, rfl, rfl, by decide⟩
  have : (3 : Nat) ≠ a := by omega
  simp [memRead, withDraws, image, State.reset, unwritten, *]

theorem witness_NoiseInvertsBitZeroUnlessClamped : ((-1 : Int) = -1 ∧ (0#8 : Byte) = 0#8) ∧ ((1 : Int) = 1 ∧ (255#8 : Byte) = 255#8) := by
  decide

end Sys2Proof.Tests
end

/-! ## No command writes an alpha sample or a sample beyond the image

Every write to `PIX` goes to `off j` for a channel index `j` below `3*W*H`; the offsets of 00_scope.md R5 and
10_state.md R35 are none of these. -/

namespace Sys2Proof.Machine

open Sys2Proof.Claims

/-! ### Loops of writes -/

/-- A loop of writes leaves alone every element that is none of its targets, whatever values it writes. -/
theorem memRead_foldl_memWrite_of_ne {w : Nat} (pos : Nat → Nat) (val : Memory w → Nat → BitVec w) {a : Nat}
    (l : List Nat) (m : Memory w) (ha : ∀ j ∈ l, a ≠ pos j) :
    memRead (l.foldl (fun m j => memWrite m (pos j) (val m j)) m) a = memRead m a := by
  induction l generalizing m with
  | nil => rfl
  | cons j l ih =>
    obtain ⟨hj, hl⟩ := List.forall_mem_cons.1 ha
    exact (ih _ hl).trans (memRead_memWrite_of_ne m _ hj)

theorem memRead_embedBits_of_ne {pos : Nat → Nat} {L a : Nat} (ha : ∀ j < L, a ≠ pos j) (F : Nat → Bool)
    (m : Memory 8) : memRead (embedBits pos F L m) a = memRead m a :=
  memRead_foldl_memWrite_of_ne pos (fun m j => setBit0 (memRead m (pos j)) (F j)) _ m
    fun j hj => ha j (List.mem_range.1 hj)

theorem memRead_embedSymbols_of_ne {K a : Nat} (ha : ∀ k < K, a ≠ off k) (F : Nat → Bool) (m : Memory 8) :
    memRead (embedSymbols F K m) a = memRead m a :=
  memRead_foldl_memWrite_of_ne off (fun m k => setSymbol (memRead m (off k)) (F (2 * k)) (F (2 * k + 1))) _ m
    fun k hk => ha k (List.mem_range.1 hk)

theorem memRead_nudgePixel_of_ne {p a : Nat} (ha : ∀ c < 3, a ≠ 4 * p + c) (d : Int) (m : Memory 8) :
    memRead (nudgePixel p d m) a = memRead m a :=
  memRead_foldl_memWrite_of_ne (4 * p + ·) (fun m c => clampAdd (memRead m (4 * p + c)) d) [0, 1, 2] m
    fun c hc => ha c (by simp at hc; omega)

theorem memRead_noisePixel_of_ne {p a : Nat} (ha : ∀ c < 3, a ≠ 4 * p + c) (s : State) :
    memRead (noisePixel s p).pix a = memRead s.pix a := by
  unfold noisePixel
  split
  · exact memRead_nudgePixel_of_ne ha _ _
  · rfl

theorem memRead_foldl_noisePixel_of_ne {a : Nat} (l : List Nat) (s : State)
    (ha : ∀ p ∈ l, ∀ c < 3, a ≠ 4 * p + c) : memRead (l.foldl noisePixel s).pix a = memRead s.pix a := by
  induction l generalizing s with
  | nil => rfl
  | cons p l ih =>
    obtain ⟨hp, hl⟩ := List.forall_mem_cons.1 ha
    exact (ih _ hl).trans (memRead_noisePixel_of_ne hp s)

/-! ### Checked rules -/

/-- What a checked rule leaves has a property that every failing test's report has and, once the tests pass, the
rule's own outcome has. -/
theorem checked_state_of {P : State → Prop} {tests : Tests} {s : State} {rule : State → Ending}
    (hfail : ∀ e, P (s.raise e)) (hpass : firstFailing tests = none → P (rule s).state) :
    P (checked tests s rule).state := by
  obtain ⟨e, -, h⟩ | ⟨hnone, h⟩ := checked_cases tests s rule <;> rw [h]
  · exact hfail e
  · exact hpass hnone

/-- A checked rule keeps what an element of `PIX` reads as when the rule does. -/
theorem memRead_pix_checked {tests : Tests} {s : State} {rule : State → Ending} {a : Nat}
    (hpass : firstFailing tests = none → memRead (rule s).state.pix a = memRead s.pix a) :
    memRead (checked tests s rule).state.pix a = memRead s.pix a :=
  checked_state_of (P := fun t => memRead t.pix a = memRead s.pix a) (fun _ => rfl) hpass

/-- A checked rule keeps `PIX` when the rule does. -/
theorem checked_pix {tests : Tests} {s : State} {rule : State → Ending} (hrule : (rule s).state.pix = s.pix) :
    (checked tests s rule).state.pix = s.pix :=
  checked_state_of (P := fun t => t.pix = s.pix) (fun _ => rfl) fun _ => hrule

/-- When no test fails, no test's condition holds. -/
theorem not_of_mem_of_firstFailing_eq_none {tests : Tests} {p : Prop} [Decidable p] (e : CmdError)
    (h : firstFailing tests = none) (hmem : (decide p, e) ∈ tests) : ¬p :=
  of_decide_eq_false (firstFailing_eq_none.1 h _ hmem)

/-- Once `EncChecks` pass there is an image. -/
theorem pixels_pos_of_encTests {s : State} (h : firstFailing (encTests s) = none) : 0 < s.pixels :=
  Nat.pos_of_ne_zero (not_of_mem_of_firstFailing_eq_none .noImage h (by simp [encTests, imageTests]))

/-! ### The commands that do not write `PIX` -/

theorem finishDecode_pix (c : Codec) (s : State) (r : Except CmdError (List Byte)) :
    (finishDecode c s r).state.pix = s.pix := by
  cases r <;> rfl

theorem decodeAuto_pix (s : State) : (decodeAuto s).state.pix = s.pix := by
  unfold decodeAuto
  split
  · rfl
  · split
    · rfl
    · split <;> rfl

/-- Only the encode commands and `NOISE` write `PIX` (10_state.md R42). -/
theorem exec_pix {i : Instr} {s t : State} (h : exec i s = .next t) (hi : i ∉ Instr.noise :: encCommands) :
    t.pix = s.pix := by
  cases i <;> cases h
  case nop | cap | plaus | srst => rfl
  case encLsb | encLsb2 | encRandom | noise => simp [encCommands] at hi
  case decLsb | decLsb2 => exact checked_pix (finishDecode_pix _ _ _)
  case decRandom => exact checked_pix (s := s.accept) (finishDecode_pix _ _ _)
  case decAuto => exact checked_pix (decodeAuto_pix _)
  case analyze | xmask => exact checked_pix rfl
  case genpos =>
    refine checked_pix ?_
    dsimp only
    split <;> rfl

/-! ### The commands that write `PIX` -/

section Writers

variable {s : State} {a : Nat} (ha : ∀ j < s.rgbCount, a ≠ off j)
include ha

theorem memRead_encodeSeq1_of_ne : memRead (encodeSeq1 s).state.pix a = memRead s.pix a := by
  refine memRead_pix_checked fun hpass => memRead_embedBits_of_ne (fun j hj => ha j ?_) _ _
  have hfits : frameLen s.payLen.toNat ≤ s.rgbCount :=
    Nat.le_of_not_lt (not_of_mem_of_firstFailing_eq_none .payloadExhausted hpass (by simp))
  exact hj.trans_le hfits

theorem memRead_encodeSeq2_of_ne : memRead (encodeSeq2 s).state.pix a = memRead s.pix a := by
  refine memRead_pix_checked fun hpass => memRead_embedSymbols_of_ne (fun k hk => ha k ?_) _ _
  have hfits : frameLen s.payLen.toNat / 2 ≤ s.rgbCount :=
    Nat.le_of_not_lt (not_of_mem_of_firstFailing_eq_none .payloadExhausted hpass (by simp))
  exact hk.trans_le hfits

/-- No position of the generator is `a`. -/
theorem ne_of_mem_genPos (himg : 0 < s.pixels) {count o : Nat} (ho : o ∈ s.genPos count) : a ≠ o := by
  rw [state_genPos himg] at ho
  obtain ⟨k, hk, rfl⟩ := (goodPositions_genPos himg count).2 o ho
  exact ha k hk

theorem memRead_encodeRand_of_ne (himg : 0 < s.pixels) : memRead (encodeRand s).state.pix a = memRead s.pix a := by
  unfold encodeRand
  dsimp only
  refine memRead_pix_checked (s := s.storePositions _) fun hpass => memRead_embedBits_of_ne (fun j hj => ?_) _ _
  have hlong : frameLen s.payLen.toNat ≤ (s.genPos (frameLen s.payLen.toNat)).length :=
    Nat.le_of_not_lt (not_of_mem_of_firstFailing_eq_none .payloadExhausted hpass (by simp))
  rw [List.getD_eq_getElem _ _ (hj.trans_le hlong)]
  exact ne_of_mem_genPos ha himg (List.getElem_mem _)

theorem memRead_noise_of_ne : memRead ((List.range s.pixels).foldl noisePixel s).pix a = memRead s.pix a := by
  refine memRead_foldl_noisePixel_of_ne _ s fun p hp c hc => ?_
  have hj : 3 * p + c < s.rgbCount := by
    have := List.mem_range.1 hp
    unfold State.rgbCount
    omega
  have hoff : off (3 * p + c) = 4 * p + c := by unfold off; omega
  exact hoff ▸ ha _ hj

/-- A command writes no element of `PIX` but RGB samples of the image. -/
theorem memRead_exec_pix_of_ne {i : Instr} {t : State} (h : exec i s = .next t) :
    memRead t.pix a = memRead s.pix a := by
  by_cases hi : i ∈ Instr.noise :: encCommands
  · simp only [encCommands, List.mem_cons, List.not_mem_nil, or_false] at hi
    obtain rfl | rfl | rfl | rfl := hi <;> cases h
    · exact memRead_pix_checked fun _ => memRead_noise_of_ne (s := s.accept) ha
    · exact memRead_pix_checked fun _ => memRead_encodeSeq1_of_ne (s := s.accept) ha
    · exact memRead_pix_checked fun _ => memRead_encodeSeq2_of_ne (s := s.accept) ha
    · exact memRead_pix_checked fun hpass =>
        memRead_encodeRand_of_ne (s := s.accept) ha (pixels_pos_of_encTests hpass)
  · rw [exec_pix h hi]

end Writers

/-- An alpha offset, or an offset at `4*W*H` and above, is the offset of no channel index of the image. -/
theorem ne_off_of_alpha_or_beyond {s : State} {a : Nat} (ha : a % 4 = 3 ∨ 4 * area s ≤ a) :
    ∀ j < s.rgbCount, a ≠ off j := by
  rintro j hj rfl
  obtain halpha | hbeyond := ha
  · have := off_not_alpha j
    omega
  · exact absurd ((off_lt_iff j (area s)).2 hj) (Nat.not_lt.2 hbeyond)

/-- Settles O23: every command writes `PIX` at offsets `off j` with `j < 3*W*H` only. -/
theorem alphaAndBeyondAreNeverWritten : Obligations.AlphaAndBeyondAreNeverWritten :=
  fun _ _ _ _ h ha => memRead_exec_pix_of_ne (ne_off_of_alpha_or_beyond ha) h

end Sys2Proof.Machine

/-! ## Noninterference: what no command reads

One two-run argument serves every statement of the form "the outcome of a command does not depend on X". A relation
between two states whose members give the commands the same inputs (`SameInputs`) and which every named operation
that a command's rule is made of keeps (`IsUpdate`) is kept by every command (`Noninterfering.exec_related`). -/

namespace Sys2Proof.Machine

open Sys2Proof.Claims

/-! ### Inputs -/

/-- Two states that hold the same everywhere a command may read: `STATUS`, the result registers, `POS`, `HIST`, alpha
samples and samples beyond the image are left out (10_state.md R33 to R42). -/
structure SameInputs (s s' : State) : Prop where
  ctrl : s'.ctrl = s.ctrl
  width : s'.width = s.width
  height : s'.height = s.height
  payLen : s'.payLen = s.payLen
  keyLen : s'.keyLen = s.keyLen
  posCnt : s'.posCnt = s.posCnt
  pay : s'.pay = s.pay
  key : s'.key = s.key
  pixSize : s'.pixSize = s.pixSize
  drawScript : s'.drawScript = s.drawScript
  drawn : s'.drawn = s.drawn
  rgb : ∀ j < s.rgbCount, memRead s'.pix (off j) = memRead s.pix (off j)

/-- Streams that agree on the available bits unframe alike. -/
theorem unframe_congr {get get' : Nat → Bool} {avail : Nat} (h : ∀ j < avail, get' j = get j) :
    unframe get' avail = unframe get avail := by
  by_cases hshort : avail < 32
  · have herror : ∀ g, unframe g avail = .error .prefixExhausted := fun g => by
      simp [unframe, unframeTests, Config.prefixBits, hshort]
    rw [herror, herror]
  have hprefix : readPrefix get' = readPrefix get := readBits_congr fun j (hj : j < 32) => h _ (by omega)
  have htests : unframeTests get' avail = unframeTests get avail := by unfold unframeTests; rw [hprefix]
  unfold unframe
  rw [htests, hprefix]
  cases hfail : firstFailing (unframeTests get avail) with
  | some e => rfl
  | none =>
    have hlong : ¬32 + 8 * readPrefix get > avail :=
      not_of_mem_of_firstFailing_eq_none .payloadExhausted hfail (by simp [unframeTests, frameLen, Config.prefixBits])
    have hchar : ∀ i < readPrefix get, readChar get' i = readChar get i := fun i hi =>
      congrArg (BitVec.ofNat 8) (readBits_congr fun j hj => h _ (by omega))
    exact congrArg Except.ok (List.map_congr_left fun i hi => hchar i (List.mem_range.1 hi))

/-- Channel `c` of pixel `p` has channel index `3*p + c` (42_codecs.md R140). -/
theorem off_pixel (p : Nat) {c : Nat} (hc : c < 3) : off (3 * p + c) = 4 * p + c := by unfold off; omega

/-- A position of the generator is an RGB offset of the image. -/
theorem exists_off_of_mem_genPos {s : State} (himg : 0 < s.pixels) {count o : Nat} (ho : o ∈ s.genPos count) :
    ∃ k < s.rgbCount, o = off k :=
  (goodPositions_genPos himg count).2 o (state_genPos himg count ▸ ho)

/-- Once `DecChecks` pass there is an image. -/
theorem pixels_pos_of_decTests {s : State} (h : firstFailing (decTests s) = none) : 0 < s.pixels :=
  Nat.pos_of_ne_zero (not_of_mem_of_firstFailing_eq_none .noImage h (by simp [decTests, imageTests]))

theorem noisePixel_pixels (s : State) (p : Nat) : (noisePixel s p).pixels = s.pixels := by
  unfold noisePixel
  split <;> rfl

namespace SameInputs

variable {s s' : State} (h : SameInputs s s')
include h

theorem pixels : s'.pixels = s.pixels := by simp only [State.pixels, h.width, h.height]

theorem rgbCount : s'.rgbCount = s.rgbCount := by simp only [State.rgbCount, h.pixels]

theorem pixBytes : s'.pixBytes = s.pixBytes := by simp only [State.pixBytes, h.pixSize]

theorem imageTests : imageTests s' = imageTests s := by simp only [Machine.imageTests, h.pixels, h.pixBytes]

theorem cipherTests : cipherTests s' = cipherTests s := by simp only [Machine.cipherTests, h.ctrl, h.keyLen]

theorem cap : s'.cap = s.cap := by simp only [State.cap, h.width, h.height]

theorem encTests : encTests s' = encTests s := by
  simp only [Machine.encTests, h.imageTests, h.cipherTests, h.payLen, h.cap]

theorem decTests : decTests s' = decTests s := by simp only [Machine.decTests, h.imageTests, h.cipherTests]

theorem genposTests : genposTests s' = genposTests s := by simp only [Machine.genposTests, h.imageTests, h.posCnt]

theorem xmaskTests : xmaskTests s' = xmaskTests s := by simp only [Machine.xmaskTests, h.keyLen, h.payLen]

theorem cipher : s'.cipher = s.cipher := by
  funext text i
  simp only [State.cipher, h.ctrl, h.key, h.keyLen]

theorem frame : s'.frame = s.frame := by simp only [State.frame, State.framedPayload, h.cipher, h.pay, h.payLen]

theorem genPos : s'.genPos = s.genPos := by
  funext count
  simp only [State.genPos, h.width, h.height, h.rgbCount]

theorem decPositions : s'.decPositions = s.decPositions := by simp only [State.decPositions, h.genPos]

theorem nextDraw : s'.nextDraw = s.nextDraw := by simp only [State.nextDraw, h.drawScript, h.drawn]

theorem rgbSamples : rgbSamples s'.pix s.pixels = rgbSamples s.pix s.pixels := by
  refine List.flatMap_congr fun p hp => ?_
  have hp := List.mem_range.1 hp
  have hread : ∀ c < 3, memRead s'.pix (4 * p + c) = memRead s.pix (4 * p + c) := fun c hc =>
    off_pixel p hc ▸ h.rgb (3 * p + c) (by unfold State.rgbCount; omega)
  rw [← hread 1 (by decide), ← hread 2 (by decide)]
  exact congrArg (· :: _) (hread 0 (by decide))

theorem decodeSeq1 : decodeSeq1 s' = decodeSeq1 s := by
  unfold Machine.decodeSeq1
  rw [h.rgbCount]
  exact unframe_congr fun j hj => congrArg bit0 (h.rgb j hj)

theorem decodeSeq2 : decodeSeq2 s' = decodeSeq2 s := by
  unfold Machine.decodeSeq2
  rw [h.rgbCount]
  exact unframe_congr fun j hj => congrArg (symbolBit · j) (h.rgb (j / 2) (by omega))

/-- The positions read are RGB samples of the image only if there is an image. -/
theorem decodeRand (himg : 0 < s.pixels) : decodeRand s' = decodeRand s := by
  unfold Machine.decodeRand
  rw [h.decPositions]
  refine unframe_congr fun j hj => congrArg bit0 ?_
  obtain ⟨k, hk, hoff⟩ := exists_off_of_mem_genPos himg (List.getElem_mem hj)
  rw [List.getD_eq_getElem _ _ hj]
  exact hoff ▸ h.rgb k hk

end SameInputs

/-! ### Updates -/

/-- The named operations that the rules of the commands are made of, with their arguments fixed. -/
inductive IsUpdate : (State → State) → Prop
  | complete : IsUpdate State.complete
  | raise (e : CmdError) : IsUpdate (State.raise e)
  | writePix (a : Nat) (v : Byte) : IsUpdate fun s => s.setPix (memWrite s.pix a v)
  | setPay (m : Memory 8) : IsUpdate (State.setPay m)
  | setPayLen (n : Nat) : IsUpdate (State.setPayLen n)
  | setSchemeUsed (c : Codec) : IsUpdate (State.setSchemeUsed c)
  | setPlaus (b : Bool) : IsUpdate (State.setPlaus b)
  | setCapacity (c : Int) : IsUpdate (State.setCapacity c)
  | storePositions (P : List Nat) : IsUpdate (State.storePositions P)
  | afterDraw : IsUpdate State.afterDraw
  | recordAnalysis (T : Nat) (h : List Nat) (r1 r2 : DrawWord) : IsUpdate (State.recordAnalysis T h r1 r2)
  | resetRegisters : IsUpdate State.resetRegisters

/-- A relation whose two sides give every command the same inputs and which every update keeps. -/
structure Noninterfering (R : State → State → Prop) : Prop where
  inputs {s s' : State} : R s s' → SameInputs s s'
  update {u : State → State} {s s' : State} : IsUpdate u → R s s' → R (u s) (u s')

namespace Noninterfering

variable {R : State → State → Prop} (hR : Noninterfering R) {s s' : State}
include hR

/-- Related runs of a checked rule: the same test fails in both, or both rules run. -/
theorem checked (h : R s s') {tests tests' : Tests} {rule rule' : State → Ending} (htests : tests' = tests)
    (hpass : firstFailing tests = none → R (rule s).state (rule' s').state) :
    R (checked tests s rule).state (checked tests' s' rule').state := by
  subst htests
  obtain ⟨e, hsome, hrun⟩ | ⟨hnone, hrun⟩ := checked_cases tests' s rule
  · rw [hrun, checked_of_some hsome]
    exact hR.update (.raise e) h
  · rw [hrun, checked_of_none hnone]
    exact hpass hnone

theorem completed (h : R s s') : R (Ending.completed s).state (Ending.completed s').state := hR.update .complete h

theorem raised (e : CmdError) (h : R s s') : R (Ending.raised e s).state (Ending.raised e s').state :=
  hR.update (.raise e) h

/-- A loop that updates RGB samples of the image, each from what it holds. -/
theorem setPix_loop {pos : Nat → Nat} (f : Nat → Byte → Byte) (l : List Nat) (h : R s s')
    (hpos : ∀ j ∈ l, ∃ k < s.rgbCount, pos j = off k) :
    R (s.setPix (l.foldl (fun m j => memWrite m (pos j) (f j (memRead m (pos j)))) s.pix))
      (s'.setPix (l.foldl (fun m j => memWrite m (pos j) (f j (memRead m (pos j)))) s'.pix)) := by
  induction l generalizing s s' with
  | nil => exact h
  | cons j l ih =>
    obtain ⟨⟨k, hk, hj⟩, hl⟩ := List.forall_mem_cons.1 hpos
    have hread : memRead s'.pix (pos j) = memRead s.pix (pos j) := hj ▸ (hR.inputs h).rgb k hk
    simp only [List.foldl_cons, hread]
    exact ih (hR.update (.writePix (pos j) (f j (memRead s.pix (pos j)))) h) hl

theorem deliver (c : Codec) (B : List Byte) (h : R s s') : R (s.deliver c B) (s'.deliver c B) := by
  unfold State.deliver
  rw [(hR.inputs h).pay, (hR.inputs h).cipher]
  exact hR.update (.setSchemeUsed c) (hR.update (.setPayLen _) (hR.update (.setPay _) h))

theorem finishDecode (c : Codec) (r : Except CmdError (List Byte)) (h : R s s') :
    R (finishDecode c s r).state (finishDecode c s' r).state := by
  cases r with
  | ok B => exact hR.completed (hR.deliver c B h)
  | error e => exact hR.raised e (hR.update (.setPayLen 0) h)

/-! ### Rules -/

theorem encodeSeq1 (h : R s s') : R (encodeSeq1 s).state (encodeSeq1 s').state := by
  have hin := hR.inputs h
  refine hR.checked h (by rw [hin.rgbCount, hin.payLen]) fun hpass => hR.completed ?_
  rw [hin.frame, hin.payLen]
  refine hR.setPix_loop (fun j x => setBit0 x (s.frame j)) _ h fun j hj => ⟨j, ?_, rfl⟩
  have hfits : frameLen s.payLen.toNat ≤ s.rgbCount :=
    Nat.le_of_not_lt (not_of_mem_of_firstFailing_eq_none .payloadExhausted hpass (by simp))
  exact (List.mem_range.1 hj).trans_le hfits

theorem encodeSeq2 (h : R s s') : R (encodeSeq2 s).state (encodeSeq2 s').state := by
  have hin := hR.inputs h
  refine hR.checked h (by rw [hin.rgbCount, hin.payLen]) fun hpass => hR.completed ?_
  rw [hin.frame, hin.payLen]
  refine hR.setPix_loop (fun k x => setSymbol x (s.frame (2 * k)) (s.frame (2 * k + 1))) _ h
    fun k hk => ⟨k, ?_, rfl⟩
  have hfits : frameLen s.payLen.toNat / 2 ≤ s.rgbCount :=
    Nat.le_of_not_lt (not_of_mem_of_firstFailing_eq_none .payloadExhausted hpass (by simp))
  exact (List.mem_range.1 hk).trans_le hfits

theorem encodeRand (himg : 0 < s.pixels) (h : R s s') : R (encodeRand s).state (encodeRand s').state := by
  have hin := hR.inputs h
  unfold Machine.encodeRand
  simp only [hin.genPos, hin.payLen]
  have hstored := hR.update (.storePositions (s.genPos (frameLen s.payLen.toNat))) h
  refine hR.checked hstored rfl fun hpass => hR.completed ?_
  rw [(hR.inputs hstored).frame, (hR.inputs hstored).payLen]
  refine hR.setPix_loop (fun j x => setBit0 x (s.frame j)) _ hstored fun j hj => ?_
  have hlong : frameLen s.payLen.toNat ≤ (s.genPos (frameLen s.payLen.toNat)).length :=
    Nat.le_of_not_lt (not_of_mem_of_firstFailing_eq_none .payloadExhausted hpass (by simp))
  rw [List.getD_eq_getElem _ _ ((List.mem_range.1 hj).trans_le hlong)]
  exact exists_off_of_mem_genPos himg (List.getElem_mem _)

theorem decodeAuto (himg : 0 < s.pixels) (h : R s s') : R (decodeAuto s).state (decodeAuto s').state := by
  have hin := hR.inputs h
  unfold Machine.decodeAuto
  rw [hin.decodeSeq1, hin.decodeSeq2, hin.decodeRand himg, hin.decPositions]
  have hstored := hR.update (.storePositions s.decPositions) h
  cases plausibleResult (Machine.decodeSeq1 s) with
  | some B => exact hR.completed (hR.deliver .lsb B h)
  | none =>
    cases plausibleResult (Machine.decodeSeq2 s) with
    | some B => exact hR.completed (hR.deliver .lsb2 B h)
    | none =>
      cases Machine.decodeRand s with
      | ok B => exact hR.completed (hR.deliver .random B hstored)
      | error _ => exact hR.raised .autoExhausted (hR.update (.setPayLen 0) hstored)

theorem analyze (h : R s s') :
    R (s.afterDraw.afterDraw.recordAnalysis s.rgbCount (histogram (rgbSamples s.pix s.pixels)) s.nextDraw
        s.afterDraw.nextDraw)
      (s'.afterDraw.afterDraw.recordAnalysis s'.rgbCount (histogram (rgbSamples s'.pix s'.pixels)) s'.nextDraw
        s'.afterDraw.nextDraw) := by
  have hin := hR.inputs h
  have hdraw := hR.update .afterDraw h
  rw [hin.rgbCount, hin.pixels, hin.rgbSamples, hin.nextDraw, (hR.inputs hdraw).nextDraw]
  exact hR.update (.recordAnalysis _ _ _ _) (hR.update .afterDraw hdraw)

theorem noisePixel {p : Nat} (hp : p < s.pixels) (h : R s s') : R (noisePixel s p) (noisePixel s' p) := by
  have hdraw := hR.update .afterDraw h
  unfold Machine.noisePixel
  rw [(hR.inputs h).nextDraw, (hR.inputs hdraw).nextDraw]
  split
  · have hsample : ∀ c ∈ List.range 3, ∃ k < s.rgbCount, 4 * p + c = off k := fun c hc => by
      have hc := List.mem_range.1 hc
      exact ⟨3 * p + c, by unfold State.rgbCount; omega, (off_pixel p hc).symm⟩
    exact hR.setPix_loop (fun _ x => clampAdd x _) (List.range 3) (hR.update .afterDraw hdraw) hsample
  · exact hdraw

theorem noise_loop (l : List Nat) (h : R s s') (hl : ∀ p ∈ l, p < s.pixels) :
    R (l.foldl Machine.noisePixel s) (l.foldl Machine.noisePixel s') := by
  induction l generalizing s s' with
  | nil => exact h
  | cons p l ih =>
    obtain ⟨hp, hl⟩ := List.forall_mem_cons.1 hl
    exact ih (hR.noisePixel hp h) fun q hq => noisePixel_pixels s p ▸ hl q hq

/-- A command keeps a noninterfering relation, whatever the two states held in `STATUS` before its
acceptance. -/
theorem exec_related {i : Instr} {t t' : State} (h : R s.accept s'.accept) (ht : exec i s = .next t)
    (ht' : exec i s' = .next t') : R t t' := by
  have hin := hR.inputs h
  cases i <;> cases ht <;> cases ht'
  case nop => exact hR.completed h
  case cap =>
    dsimp only
    rw [hin.cap]
    exact hR.completed (hR.update (.setCapacity _) h)
  case encLsb => exact hR.checked h hin.encTests fun _ => hR.encodeSeq1 h
  case encLsb2 => exact hR.checked h hin.encTests fun _ => hR.encodeSeq2 h
  case encRandom => exact hR.checked h hin.encTests fun hpass => hR.encodeRand (pixels_pos_of_encTests hpass) h
  case decLsb => exact hR.checked h hin.decTests fun _ => hin.decodeSeq1 ▸ hR.finishDecode .lsb _ h
  case decLsb2 => exact hR.checked h hin.decTests fun _ => hin.decodeSeq2 ▸ hR.finishDecode .lsb2 _ h
  case decRandom =>
    refine hR.checked h hin.decTests fun hpass => ?_
    rw [hin.decodeRand (pixels_pos_of_decTests hpass), hin.decPositions]
    exact hR.finishDecode .random _ (hR.update (.storePositions _) h)
  case decAuto => exact hR.checked h hin.decTests fun hpass => hR.decodeAuto (pixels_pos_of_decTests hpass) h
  case analyze => exact hR.checked h hin.imageTests fun _ => hR.completed (hR.analyze h)
  case genpos =>
    refine hR.checked h hin.genposTests fun _ => ?_
    have hstored := hR.update (.storePositions (s.accept.genPos s.accept.posCnt.toNat)) h
    simp only [hin.genPos, hin.posCnt]
    split
    · exact hR.raised .positionsExhausted hstored
    · exact hR.completed hstored
  case xmask =>
    refine hR.checked h hin.xmaskTests fun _ => hR.completed ?_
    rw [hin.pay, hin.key, hin.keyLen, hin.payLen]
    exact hR.update (.setPay _) h
  case noise =>
    refine hR.checked h hin.imageTests fun _ => hR.completed ?_
    rw [hin.pixels]
    exact hR.noise_loop _ h fun p hp => List.mem_range.1 hp
  case plaus =>
    dsimp only
    rw [hin.pay, hin.payLen]
    exact hR.completed (hR.update (.setPlaus _) h)
  case srst => exact hR.update .resetRegisters h

theorem exists_exec_related {i : Instr} {t : State} (h : R s.accept s'.accept) (ht : exec i s = .next t) :
    ∃ t', exec i s' = .next t' ∧ R t t' :=
  (exec_next i s').imp fun _ ht' => ⟨ht', hR.exec_related h ht ht'⟩

end Noninterfering

/-! ### `STATUS`, the results, and the samples that are not RGB samples of the image -/

/-- Two states apart from `STATUS`, where they may differ in `PLAUS` and `SCHEME_USED` only: acceptance clears the rest
(60_exceptions.md R222). -/
def SameReport (s s' : State) : Prop :=
  ∃ plaus schemeUsed, s' = { s with status := { s.status with plaus := plaus, schemeUsed := schemeUsed } }

theorem noninterfering_sameReport : Noninterfering SameReport where
  inputs := by
    rintro s _ ⟨_, _, rfl⟩
    exact ⟨rfl, rfl, rfl, rfl, rfl, rfl, rfl, rfl, rfl, rfl, rfl, fun _ _ => rfl⟩
  update := by
    rintro _ s _ hu ⟨_, _, rfl⟩
    cases hu <;> exact ⟨_, _, rfl⟩

/-- Settles O20: after acceptance two runs that differ in `STATUS` differ in `PLAUS` and `SCHEME_USED` at most. -/
theorem statusIsNeverAnInput : Obligations.StatusIsNeverAnInput := by
  intro i s t st ht
  obtain ⟨_, ht', _, _, rfl⟩ := noninterfering_sameReport.exists_exec_related (s' := { s with status := st })
    ⟨st.plaus, st.schemeUsed, rfl⟩ ht
  exact ⟨_, ht', rfl, rfl, rfl, rfl⟩

/-- Two states that differ in the result registers, `POS` and `HIST` only. -/
def SameButResults (s s' : State) : Prop :=
  ∃ capacity total lsbOnes histMax rndCnt entropy lsbBias chiSq prob pos hist,
    s' = { s with capacity := capacity, total := total, lsbOnes := lsbOnes, histMax := histMax, rndCnt := rndCnt,
                  entropy := entropy, lsbBias := lsbBias, chiSq := chiSq, prob := prob, pos := pos, hist := hist }

theorem noninterfering_sameButResults : Noninterfering SameButResults where
  inputs := by
    rintro s _ ⟨_, _, _, _, _, _, _, _, _, _, _, rfl⟩
    exact ⟨rfl, rfl, rfl, rfl, rfl, rfl, rfl, rfl, rfl, rfl, rfl, fun _ _ => rfl⟩
  update := by
    rintro _ s _ hu ⟨_, _, _, _, _, _, _, _, _, _, _, rfl⟩
    cases hu <;> exact ⟨_, _, _, _, _, _, _, _, _, _, _, rfl⟩

/-- Settles O21: runs that differ in the results only go on differing in the results only. -/
theorem resultsAreNeverAnInput : Obligations.ResultsAreNeverAnInput := by
  intro i s t capacity total lsbOnes histMax rndCnt entropy lsbBias chiSq prob pos hist ht
  obtain ⟨t', ht', _, _, _, _, _, _, _, _, _, _, _, rfl⟩ := noninterfering_sameButResults.exists_exec_related
    (s := s) (s' := { s with capacity := capacity, total := total, lsbOnes := lsbOnes, histMax := histMax,
                             rndCnt := rndCnt, entropy := entropy, lsbBias := lsbBias, chiSq := chiSq,
                             prob := prob, pos := pos, hist := hist })
    ⟨capacity, total, lsbOnes, histMax, rndCnt, entropy, lsbBias, chiSq, prob, pos, hist, rfl⟩ ht
  exact ⟨_, ht', rfl⟩

/-- Two states that differ in `PIX` only, and there agree on the samples of the first `N` channel indices, which cover
the image. -/
def SameButPixBeyond (N : Nat) (s s' : State) : Prop :=
  s.rgbCount ≤ N ∧ ∃ m, s' = s.setPix m ∧ ∀ j < N, memRead m (off j) = memRead s.pix (off j)

theorem memRead_memWrite_congr {w : Nat} {m m' : Memory w} {k : Nat} (h : memRead m' k = memRead m k) (a : Nat)
    (v : BitVec w) : memRead (memWrite m' a v) k = memRead (memWrite m a v) k := by
  rw [memRead_memWrite, memRead_memWrite, h]

theorem noninterfering_sameButPixBeyond (N : Nat) : Noninterfering (SameButPixBeyond N) where
  inputs := by
    rintro s _ ⟨hN, m, rfl, hm⟩
    exact ⟨rfl, rfl, rfl, rfl, rfl, rfl, rfl, rfl, rfl, rfl, rfl, fun j hj => hm j (hj.trans_le hN)⟩
  update := by
    rintro _ s _ hu ⟨hN, m, rfl, hm⟩
    cases hu
    case writePix a v => exact ⟨hN, memWrite m a v, rfl, fun j hj => memRead_memWrite_congr (hm j hj) a v⟩
    case resetRegisters => exact ⟨Nat.zero_le N, m, rfl, hm⟩
    all_goals exact ⟨hN, m, rfl, hm⟩

/-- Settles O24: runs that agree on the RGB samples of the image go on agreeing on them and on everything else. -/
theorem alphaAndBeyondAreNeverRead : Obligations.AlphaAndBeyondAreNeverRead := by
  intro i s t m ht hm
  have hagree : ∀ j < 3 * area s, memRead m (off j) = memRead s.pix (off j) := fun j hj =>
    hm _ (by have := off_not_alpha j; omega) ((off_lt_iff j _).2 hj)
  obtain ⟨_, ht', -, m', rfl, hm'⟩ := (noninterfering_sameButPixBeyond (3 * area s)).exists_exec_related
    (s' := s.setPix m) ⟨Nat.le_refl _, m, rfl, hagree⟩ ht
  refine ⟨_, ht', rfl, fun a halpha ha => ?_⟩
  obtain ⟨j, rfl⟩ := exists_off halpha
  exact hm' j ((off_lt_iff j _).1 ha)

end Sys2Proof.Machine

/-! ## The write sets of the commands (10_state.md R42) -/

namespace Sys2Proof.Machine

open Sys2Proof.Claims

/-- The state `s` with the fields that the command may write, by the table of 10_state.md R42, taken from `t`. -/
def writtenFrom (t s : State) : Instr → State
  | .nop | .plaus => { s with status := t.status }
  | .cap => { s with status := t.status, capacity := t.capacity }
  | .encLsb | .encLsb2 => { s with status := t.status, pix := t.pix }
  | .encRandom => { s with status := t.status, pix := t.pix, pos := t.pos, posCnt := t.posCnt }
  | .decLsb | .decLsb2 => { s with status := t.status, pay := t.pay, payLen := t.payLen }
  | .decRandom | .decAuto =>
    { s with status := t.status, pay := t.pay, payLen := t.payLen, pos := t.pos, posCnt := t.posCnt }
  | .analyze =>
    { s with status := t.status, hist := t.hist, total := t.total, lsbOnes := t.lsbOnes, entropy := t.entropy,
             lsbBias := t.lsbBias, chiSq := t.chiSq, prob := t.prob, histMax := t.histMax, rndCnt := t.rndCnt,
             drawScript := t.drawScript, drawn := t.drawn }
  | .genpos => { s with status := t.status, pos := t.pos, posCnt := t.posCnt }
  | .xmask => { s with status := t.status, pay := t.pay }
  | .noise =>
    { s with status := t.status, pix := t.pix, rndCnt := t.rndCnt, drawScript := t.drawScript, drawn := t.drawn }
  | .srst => s.resetRegisters

/-- `t` differs from `s` in what the command may write only. -/
def WritesOnly (i : Instr) (s t : State) : Prop := t = writtenFrom t s i

namespace WritesOnly

variable {i : Instr} {s t : State}

theorem trans {u : State} (h : WritesOnly i s t) (h' : WritesOnly i t u) : WritesOnly i s u := by
  have hcollapse : writtenFrom u (writtenFrom t s i) i = writtenFrom u s i := by cases i <;> rfl
  unfold WritesOnly at h h' ⊢
  rwa [h, hcollapse] at h'

theorem of_accept (h : WritesOnly i s.accept t) : WritesOnly i s t := by
  have haccept : writtenFrom t s.accept i = writtenFrom t s i := by cases i <;> rfl
  exact Eq.trans h haccept

/-- Every command but `SRST` may write any `STATUS`. -/
theorem setStatus (st : Status) (s : State) (hi : i ≠ .srst := by decide) :
    WritesOnly i s { s with status := st } := by
  cases i
  case srst => exact absurd rfl hi
  all_goals rfl

theorem refl (s : State) (hi : i ≠ .srst := by decide) : WritesOnly i s s := setStatus s.status s hi

/-! ### Completion and tests -/

theorem completed (h : WritesOnly i s t) (hi : i ≠ .srst := by decide) :
    WritesOnly i s (Ending.completed t).state := h.trans (setStatus _ t hi)

theorem raised (e : CmdError) (h : WritesOnly i s t) (hi : i ≠ .srst := by decide) :
    WritesOnly i s (Ending.raised e t).state := h.trans (setStatus _ t hi)

theorem checked {tests : Tests} {rule : State → Ending} (h : WritesOnly i s t)
    (hrule : WritesOnly i s (rule t).state) (hi : i ≠ .srst := by decide) :
    WritesOnly i s (checked tests t rule).state :=
  checked_state_of (fun e => h.raised e hi) fun _ => hrule

/-- A command's own tests stand before everything it writes. -/
theorem of_checked {tests : Tests} {rule : State → Ending} (hrule : WritesOnly i s (rule s).state)
    (hi : i ≠ .srst := by decide) : WritesOnly i s (Machine.checked tests s rule).state :=
  checked (refl s hi) hrule hi

/-! ### Updates -/

theorem setPix (m : Memory 8) (s : State) (hi : i ∈ Instr.noise :: encCommands := by decide) :
    WritesOnly i s (s.setPix m) := by
  simp only [encCommands, List.mem_cons, List.not_mem_nil, or_false] at hi
  obtain rfl | rfl | rfl | rfl := hi <;> rfl

theorem setPayLen (n : Nat) (s : State) (hi : i ∈ decCommands := by decide) : WritesOnly i s (s.setPayLen n) := by
  simp only [decCommands, List.mem_cons, List.not_mem_nil, or_false] at hi
  obtain rfl | rfl | rfl | rfl := hi <;> rfl

theorem deliver (c : Codec) (B : List Byte) (s : State) (hi : i ∈ decCommands := by decide) :
    WritesOnly i s (s.deliver c B) := by
  simp only [decCommands, List.mem_cons, List.not_mem_nil, or_false] at hi
  obtain rfl | rfl | rfl | rfl := hi <;> rfl

theorem storePositions (P : List Nat) (s : State)
    (hi : i ∈ [Instr.genpos, .encRandom, .decRandom, .decAuto] := by decide) :
    WritesOnly i s (s.storePositions P) := by
  simp only [List.mem_cons, List.not_mem_nil, or_false] at hi
  obtain rfl | rfl | rfl | rfl := hi <;> rfl

theorem afterDraw (s : State) (hi : i ∈ [Instr.analyze, .noise] := by decide) : WritesOnly i s s.afterDraw := by
  simp only [List.mem_cons, List.not_mem_nil, or_false] at hi
  obtain rfl | rfl := hi <;> rfl

theorem recordAnalysis (T : Nat) (h : List Nat) (r1 r2 : DrawWord) (s : State) :
    WritesOnly .analyze s (s.recordAnalysis T h r1 r2) := rfl

/-! ### Rules -/

theorem finishDecode (c : Codec) (r : Except CmdError (List Byte)) (h : WritesOnly i s t)
    (hi : i ∈ decCommands := by decide) (hi' : i ≠ .srst := by decide) :
    WritesOnly i s (finishDecode c t r).state := by
  cases r with
  | ok B => exact (h.trans (deliver c B t hi)).completed hi'
  | error e => exact (h.trans (setPayLen 0 t hi)).raised e hi'

theorem encodeSeq1 (s : State) : WritesOnly .encLsb s (encodeSeq1 s).state := of_checked (setPix _ s).completed

theorem encodeSeq2 (s : State) : WritesOnly .encLsb2 s (encodeSeq2 s).state := of_checked (setPix _ s).completed

theorem encodeRand (s : State) : WritesOnly .encRandom s (encodeRand s).state := by
  unfold Machine.encodeRand
  exact checked (storePositions _ s) ((storePositions _ s).trans (setPix _ _)).completed

theorem decodeAuto (s : State) : WritesOnly .decAuto s (decodeAuto s).state := by
  have hstored : WritesOnly .decAuto s (s.storePositions s.decPositions) := storePositions _ s
  unfold Machine.decodeAuto
  split
  · exact (deliver .lsb _ s).completed
  · split
    · exact (deliver .lsb2 _ s).completed
    · split
      · exact (hstored.trans (deliver .random _ _)).completed
      · exact (hstored.trans (setPayLen 0 _)).raised _

theorem analysis (T : Nat) (h : List Nat) (r1 r2 : DrawWord) (s : State) :
    WritesOnly .analyze s (s.afterDraw.afterDraw.recordAnalysis T h r1 r2) :=
  ((afterDraw s).trans (afterDraw _)).trans (recordAnalysis T h r1 r2 _)

theorem noisePixel (s : State) (p : Nat) : WritesOnly .noise s (noisePixel s p) := by
  unfold Machine.noisePixel
  split
  · exact ((afterDraw s).trans (afterDraw _)).trans (setPix _ _)
  · exact afterDraw s

theorem noise_loop (l : List Nat) (s : State) : WritesOnly .noise s (l.foldl Machine.noisePixel s) := by
  induction l generalizing s with
  | nil => exact refl s
  | cons p l ih => exact (noisePixel s p).trans (ih _)

end WritesOnly

/-- A command writes what the table of 10_state.md R42 names for it and nothing else. -/
theorem exec_writesOnly {i : Instr} {s t : State} (h : exec i s = .next t) : WritesOnly i s t := by
  refine WritesOnly.of_accept ?_
  cases i <;> cases h
  case nop | cap | plaus | srst => rfl
  case encLsb => exact .of_checked (.encodeSeq1 _)
  case encLsb2 => exact .of_checked (.encodeSeq2 _)
  case encRandom => exact .of_checked (.encodeRand _)
  case decLsb | decLsb2 => exact .of_checked (.finishDecode _ _ (.refl _))
  case decRandom => exact .of_checked (.finishDecode _ _ (.storePositions _ _))
  case decAuto => exact .of_checked (.decodeAuto _)
  case analyze => exact .of_checked (.completed (.analysis _ _ _ _ _))
  case genpos =>
    refine .of_checked ?_
    dsimp only
    split
    · exact (WritesOnly.storePositions _ _).raised _
    · exact (WritesOnly.storePositions _ _).completed
  case xmask => exact .of_checked rfl
  case noise => exact .of_checked (.completed (.noise_loop _ _))

/-- Settles O22: the statement's clauses read off the write set of each command. -/
theorem commandsKeepToTheirWriteSets : Obligations.CommandsKeepToTheirWriteSets := by
  intro i s t h
  have hwrites : t = writtenFrom t s i := exec_writesOnly h
  rw [hwrites]
  cases i <;> simp [writtenFrom, encCommands, decCommands]

end Sys2Proof.Machine

/-! ## The register port: reads, writes and the issue of a command -/

namespace Sys2Proof.Machine

open Sys2Proof.Claims

/-! ### Steps that write a register -/

theorem step_issue {s : State} {w : Word} {rest : List HostOp} (hh : s.host = .regWrite 1 w :: rest)
    (hidle : s.status.busy = false) : step s = issue w { s with host := rest } :=
  step_issued hh (issuedCommand_eq_some.2 ⟨rfl, hidle⟩)

/-- A register write while `BUSY` = 1 is ignored (20_memory.md R61). -/
theorem step_regWrite_busy {s : State} {i : Nat} {v : Word} {rest : List HostOp} (hh : s.host = .regWrite i v :: rest)
    (hbusy : s.status.busy = true) : step s = .next { s with host := rest } := by
  rw [step_other hh (by simp [issuedCommand, hbusy])]
  simp [hostEffect, busyEffect, hbusy]

/-- A register write while `BUSY` = 0, of another slot than `CMD`. -/
theorem step_regWrite {s : State} {i : Nat} {v : Word} {rest : List HostOp} (hh : s.host = .regWrite i v :: rest)
    (hidle : s.status.busy = false) (hi : i ≠ 1) : step s = .next (regWriteEffect { s with host := rest } i v) := by
  rw [step_other hh (by simp [issuedCommand, hi])]
  simp [hostEffect, idleEffect, hidle]

/-- Settles O5: a write to `CMD` is the one operation that issues a command, and only while `BUSY` = 0. -/
theorem stepRunsTheIssuedCommand : Obligations.StepRunsTheIssuedCommand := by
  refine ⟨fun s w rest hh => ⟨fun hidle i hd => ?_, fun hidle r hd => ?_, fun hbusy => ?_⟩, fun s => rfl⟩
  · rw [step_issue hh hidle, issue_ok hd]
  · rw [step_issue hh hidle, issue_error hd]
  · exact step_regWrite_busy hh hbusy

/-! ### The `STATUS` word (10_state.md R25) -/

/-- Appending bits below is multiplying and adding. -/
theorem toNat_append_eq {m n : Nat} (x : BitVec m) (y : BitVec n) : (x ++ y).toNat = x.toNat * 2 ^ n + y.toNat := by
  rw [BitVec.toNat_append, ← Nat.shiftLeft_add_eq_or_of_lt y.isLt, Nat.shiftLeft_eq]

/-- A bit by division. -/
theorem getLsbD_eq_decide {n : Nat} (x : BitVec n) (k : Nat) : x.getLsbD k = decide (x.toNat / 2 ^ k % 2 = 1) := by
  rw [← BitVec.testBit_toNat, Nat.testBit_eq_decide_div_mod_eq]

theorem cmdError_codes (e : CmdError) :
    kindNumber e.kind = (codes e).1 ∧ e.kind.code.toNat = (codes e).1 ∧ e.cause.toNat = (codes e).2 := by
  cases e <;> decide

/-- The fields of `STATUS` by their weights. -/
theorem statusWord_toNat (st : Status) :
    (statusWord st).toNat = 65536 * st.errCause.toNat + 256 * (codecCode st.schemeUsed).toNat +
      16 * st.errKind.toNat + 8 * st.plaus.toNat + 4 * st.error.isSome.toNat + 2 * st.done.toNat + st.busy.toNat := by
  simp only [statusWord, toNat_append_eq, BitVec.toNat_ofBool, BitVec.toNat_ofNat]
  omega

theorem statusWord_bits (st : Status) :
    (statusWord st).getLsbD 0 = st.busy ∧ (statusWord st).getLsbD 1 = st.done ∧
      (statusWord st).getLsbD 2 = st.error.isSome ∧ (statusWord st).getLsbD 3 = st.plaus ∧
      (statusWord st).getLsbD 7 = false := by
  simp only [statusWord, BitVec.getLsbD_append]
  simp

theorem errKind_toNat (st : Status) : st.errKind.toNat = match st.error with
    | none => 0
    | some e => (codes e).1 := by
  unfold Status.errKind
  cases st.error with
  | none => rfl
  | some e => exact (cmdError_codes e).2.1

theorem errCause_toNat (st : Status) : st.errCause.toNat = match st.error with
    | none => 0
    | some e => (codes e).2 := by
  unfold Status.errCause
  cases st.error with
  | none => rfl
  | some e => exact (cmdError_codes e).2.2

/-- The wider fields of `STATUS` and the reserved bits above bit 7: each field lies below the weight of the next. -/
theorem statusWord_fields (st : Status) :
    (statusWord st).toNat / 16 % 8 = st.errKind.toNat ∧
      (statusWord st).toNat / 256 % 4 = (codecCode st.schemeUsed).toNat ∧ (statusWord st).toNat / 1024 % 64 = 0 ∧
      (statusWord st).toNat / 65536 % 256 = st.errCause.toNat ∧ (statusWord st).toNat / 16777216 = 0 := by
  have hword := statusWord_toNat st
  have hkind := st.errKind.isLt
  have hcause := st.errCause.isLt
  have hscheme := (codecCode st.schemeUsed).isLt
  have hbusy := st.busy.toNat_lt
  have hdone := st.done.toNat_lt
  have herr := st.error.isSome.toNat_lt
  have hplaus := st.plaus.toNat_lt
  refine ⟨?_, ?_, ?_, ?_, ?_⟩ <;> omega

/-- A host write of `STATUS` clears the report exactly when bit 1 of the word is set (10_state.md R25). -/
theorem regWriteEffect_status (s : State) (v : Word) :
    regWriteEffect s 2 v =
      { s with status :=
        if v.toNat / 2 % 2 = 1 then { s.status with done := false, error := none } else s.status } := by
  simp only [regWriteEffect, getLsbD_eq_decide v 1, Nat.pow_one, decide_eq_true_eq]
  split <;> rfl

/-- Settles O12: the word is the sum of its weighted fields, each below the weight of the next. -/
theorem statusWordAndItsClearing : Obligations.StatusWordAndItsClearing := by
  refine ⟨cmdError_codes, fun st => ?_, fun s v rest hidle hh => ?_⟩
  · obtain ⟨hbusy, hdone, herr, hplaus, hreserved⟩ := statusWord_bits st
    obtain ⟨hkind, hscheme, hmid, hcause, htop⟩ := statusWord_fields st
    have hcode : (codecCode st.schemeUsed).toNat = match st.schemeUsed with
        | .lsb => 0
        | .lsb2 => 1
        | .random => 2 := by
      cases st.schemeUsed <;> rfl
    exact ⟨hbusy, hdone, herr, hplaus, hkind.trans (errKind_toNat st), hreserved, hscheme.trans hcode, hmid,
      hcause.trans (errCause_toNat st), htop⟩
  · rw [step_regWrite hh hidle (by decide), regWriteEffect_status]

/-! ### The register map (10_state.md R22 to R34) -/

theorem ctrlWord_toNat (c : Ctrl) : (ctrlWord c).toNat = c.ie.toNat + 2 * c.cipherEn.toNat := by
  simp only [ctrlWord, toNat_append_eq, BitVec.toNat_ofBool, BitVec.toNat_ofNat]
  omega

/-- Every slot reads as its register: the reserved slots are 18 and above. -/
theorem regReadValue_toNat (s : State) (i : Nat) : (regReadValue s i).toNat = registerMap s i :=
  match i with
  | 3 => ctrlWord_toNat s.ctrl
  | 0 | 1 | 2 | 4 | 5 | 6 | 7 | 8 | 9 | 10 | 11 | 12 | 13 | 14 | 15 | 16 | 17 | _ + 18 => rfl

/-! ### Register writes -/

/-- What a host write of a slot other than `CMD` does, field by field. -/
theorem regWriteEffect_eq (s : State) (i : Nat) (v : Word) :
    regWriteEffect s i v =
      { s with status := if i = 2 ∧ v.getLsbD 1 then s.clearReport.status else s.status
               ctrl := if i = 3 then ctrlOfWord v else s.ctrl
               width := if i = 4 then v.setWidth 16 else s.width
               height := if i = 5 then v.setWidth 16 else s.height
               payLen := if i = 6 then v.setWidth 16 else s.payLen
               keyLen := if i = 7 then v.setWidth 16 else s.keyLen
               posCnt := if i = 8 then v else s.posCnt } := by
  unfold regWriteEffect
  split
  case h_1 => cases v.getLsbD 1 <;> rfl
  case h_8 h2 h3 h4 h5 h6 h7 h8 =>
    rw [if_neg fun h => h2 h.1, if_neg h3, if_neg h4, if_neg h5, if_neg h6, if_neg h7, if_neg h8]
  all_goals rfl

theorem toNat_setWidth_16 (v : Word) : (v.setWidth 16).toNat = v.toNat % 65536 := BitVec.toNat_setWidth 16 v

theorem setWidth_32_setWidth_16 (v : Word) : (v.setWidth 16).setWidth 32 = BitVec.ofNat 32 (v.toNat % 65536) := by
  rw [← toNat_setWidth_16, BitVec.ofNat_toNat]

theorem ctrlOfWord_eq (v : Word) : ctrlOfWord v = { ie := v.toNat % 2 = 1, cipherEn := v.toNat / 2 % 2 = 1 } := by
  simp only [ctrlOfWord, getLsbD_eq_decide, Nat.pow_zero, Nat.div_one, Nat.pow_one]

theorem ctrlWord_ctrlOfWord (v : Word) : ctrlWord (ctrlOfWord v) = BitVec.ofNat 32 (v.toNat % 4) := by
  apply BitVec.eq_of_toNat_eq
  have hbit : ∀ n : Nat, (decide (n % 2 = 1)).toNat = n % 2 := fun n => by
    obtain h | h := Nat.mod_two_eq_zero_or_one n <;> simp [h]
  rw [ctrlWord_toNat, ctrlOfWord_eq, hbit, hbit, BitVec.toNat_ofNat]
  omega

/-- A register write changes the reading of its own slot only. -/
theorem regReadValue_regWriteEffect_of_ne {i j : Nat} (hj : j ≠ i) (s : State) (v : Word) :
    regReadValue (regWriteEffect s i v) j = regReadValue s j := by
  rw [regWriteEffect_eq]
  unfold regReadValue
  split <;> simp [Ne.symm hj]

/-- What a slot reads as after a write of it. -/
theorem regReadValue_regWriteEffect_self {i : Nat} (hi : i ≠ 2) (s : State) (v : Word) :
    regReadValue (regWriteEffect s i v) i =
      if i = 3 then BitVec.ofNat 32 (v.toNat % 4)
      else if 4 ≤ i ∧ i ≤ 7 then BitVec.ofNat 32 (v.toNat % 65536)
      else if i = 8 then v else regReadValue s i := by
  unfold regWriteEffect
  split
  case h_1 => exact absurd rfl hi
  case h_2 => exact ctrlWord_ctrlOfWord v
  case h_3 | h_4 | h_5 | h_6 => exact setWidth_32_setWidth_16 v
  case h_7 => rfl
  case h_8 h3 h4 h5 h6 h7 h8 =>
    have hother : i ≠ 4 ∧ i ≠ 5 ∧ i ≠ 6 ∧ i ≠ 7 := ⟨h4, h5, h6, h7⟩
    have hrange : ¬(4 ≤ i ∧ i ≤ 7) := by omega
    rw [if_neg h3, if_neg hrange, if_neg h8]

/-- Settles O11: a write sets its own field, so it changes the reading of its own slot and no other. -/
theorem registerWriteIsReadBack : Obligations.RegisterWriteIsReadBack := by
  refine ⟨regReadValue_toNat, fun s i v rest hidle hi hh => ⟨_, step_regWrite hh hidle hi, fun j hj => ?_, ?_⟩⟩
  · by_cases hji : j = i
    · subst hji
      simp only [true_and]
      exact regReadValue_regWriteEffect_self hj _ v
    · simp only [hji, false_and, if_false]
      exact regReadValue_regWriteEffect_of_ne hji _ v
  · rw [regWriteEffect_eq]
    have hwidth : ∀ (p : Prop) [Decidable p] (w : BitVec 16),
        (if p then v.setWidth 16 else w).toNat = if p then v.toNat % 65536 else w.toNat := fun p _ w => by
      rw [apply_ite BitVec.toNat, toNat_setWidth_16]
    refine ⟨?_, hwidth _ _, hwidth _ _, hwidth _ _, hwidth _ _, rfl, fun h2 => ?_, rfl⟩
    · rw [ctrlOfWord_eq]
    · exact if_neg fun h => h2 h.1

end Sys2Proof.Machine

/-! ## The memory port: host reads and writes of the memories (20_memory.md R60, R61) -/

namespace Sys2Proof.Machine

open Sys2Proof.Claims

/-! ### Steps that perform a host operation -/

/-- While `BUSY` = 0 an operation that issues no command has its idle effect. -/
theorem step_idle {s : State} {op : HostOp} {rest : List HostOp} (hh : s.host = op :: rest)
    (hidle : s.status.busy = false) (hop : issuedCommand s op = none) :
    step s = .next (idleEffect { s with host := rest } op) := by
  rw [step_other hh hop]
  simp [hostEffect, hidle]

/-- While `BUSY` = 1 no operation issues a command. -/
theorem step_busy {s : State} {op : HostOp} {rest : List HostOp} (hh : s.host = op :: rest)
    (hbusy : s.status.busy = true) : step s = .next (busyEffect { s with host := rest } op) := by
  have hop : issuedCommand s op = none :=
    Option.eq_none_iff_forall_ne_some.2 fun w hw => by simp [(issuedCommand_eq_some.1 hw).2] at hbusy
  rw [step_other hh hop]
  simp [hostEffect, hbusy]

/-! ### One element of a byte memory -/

theorem byteMem_setByteMem (s : State) (sp sp' : ByteSpace) (m : Memory 8) :
    byteMem (setByteMem s sp m) sp' = if sp' = sp then m else byteMem s sp' := by
  cases sp <;> cases sp' <;> rfl

theorem byteWriteEffect_of_lt {s : State} {sp : ByteSpace} {i : Nat} (hi : i < byteSize s sp) (v : Byte) :
    byteWriteEffect s sp i v = setByteMem s sp (memWrite (byteMem s sp) i v) := if_pos hi

theorem byteWriteEffect_of_le {s : State} {sp : ByteSpace} {i : Nat} (hi : byteSize s sp ≤ i) (v : Byte) :
    byteWriteEffect s sp i v = s := if_neg (Nat.not_lt.2 hi)

theorem memRead_byteWriteEffect {s : State} {sp : ByteSpace} {i : Nat} (hi : i < byteSize s sp) (v : Byte)
    (sp' : ByteSpace) (j : Nat) :
    memRead (byteMem (byteWriteEffect s sp i v) sp') j =
      if sp' = sp ∧ j = i then v else memRead (byteMem s sp') j := by
  rw [byteWriteEffect_of_lt hi, byteMem_setByteMem]
  by_cases hsp : sp' = sp
  · subst hsp
    simp only [if_true, true_and, memRead_memWrite]
  · simp only [hsp, if_false, false_and]

/-- A host write of a byte changes the three byte memories only. -/
theorem byteWriteEffect_frame (s : State) (sp : ByteSpace) (i : Nat) (v : Byte) :
    byteWriteEffect s sp i v =
      { s with pix := (byteWriteEffect s sp i v).pix, pay := (byteWriteEffect s sp i v).pay,
               key := (byteWriteEffect s sp i v).key } := by
  unfold byteWriteEffect
  split
  · cases sp <;> rfl
  · rfl

/-- Settles O8: the write is one `memWrite` of the memory it names. -/
theorem hostWriteReplacesOneElement : Obligations.HostWriteReplacesOneElement := by
  intro s sp i v rest hidle hh
  refine ⟨⟨rfl, rfl, rfl, rfl⟩, ⟨rfl, rfl, rfl⟩, _, step_idle hh hidle rfl, fun hi => ?_, fun hi => ?_, ?_⟩
  · exact memRead_byteWriteEffect (s := { s with host := rest }) hi v
  · exact byteWriteEffect_of_le (s := { s with host := rest }) hi v
  · exact byteWriteEffect_frame { s with host := rest } sp i v

/-! ### Reads -/

theorem byteReadValue_toNat (s : State) (sp : ByteSpace) (i : Nat) :
    (byteReadValue s sp i).toNat = if i < byteSize s sp then (memRead (byteMem s sp) i).toNat else 0 := by
  unfold byteReadValue
  split
  · exact BitVec.toNat_setWidth_of_le (by decide)
  · rfl

/-- Settles O9: each operation's idle effect, with the value of a byte read as a number. -/
theorem hostReadReturnsTheElement : Obligations.HostReadReturnsTheElement := by
  intro s rest hidle
  refine ⟨fun i hh => step_idle hh hidle rfl, ⟨rfl, rfl, rfl, rfl, rfl, rfl⟩, ⟨rfl, rfl, rfl, rfl, rfl⟩,
    fun sp i hh => ⟨_, step_idle hh hidle rfl, ?_⟩, fun sp i hh => ⟨_, step_idle hh hidle rfl, ?_⟩,
    fun sp i v hh => step_idle hh hidle rfl⟩
  · exact byteReadValue_toNat { s with host := rest } sp i
  · rfl

/-! ### Accesses while a command runs -/

theorem busyStatusWord_toNat (u : Word) : (busyStatusWord u).toNat = (u.toNat &&& 0x00FF0378) ||| 1 := by
  simp [busyStatusWord]

/-- `BUSY` = 1, `DONE` = 0, `ERR` = 0 and the reserved bits 0, whatever the free value. -/
theorem busyStatusWord_fields (u : Word) :
    (busyStatusWord u).toNat % 8 = 1 ∧ (busyStatusWord u).getLsbD 7 = false ∧
      (busyStatusWord u).toNat / 1024 % 64 = 0 ∧ (busyStatusWord u).toNat / 16777216 = 0 := by
  refine ⟨?_, ?_, ?_, ?_⟩
  · rw [busyStatusWord_toNat, show 8 = 2 ^ 3 from rfl, Nat.or_mod_two_pow, Nat.and_mod_two_pow]
    simp
  · simp [busyStatusWord]
  · rw [busyStatusWord_toNat, show 1024 = 2 ^ 10 from rfl, show 64 = 2 ^ 6 from rfl, Nat.or_div_two_pow,
      Nat.and_div_two_pow, Nat.or_mod_two_pow, Nat.and_mod_two_pow]
    simp
  · rw [busyStatusWord_toNat, show 16777216 = 2 ^ 24 from rfl, Nat.or_div_two_pow, Nat.and_div_two_pow]
    simp

/-- Settles O10: of the operations but reset, the writes do nothing and the reads return a free value. -/
theorem accessWhileBusyChangesNothing : Obligations.AccessWhileBusyChangesNothing := by
  intro s op rest hbusy hh hreset
  refine ⟨_, step_busy hh hbusy, ?_⟩
  cases op with
  | regRead i =>
    refine ⟨rfl, by simp, fun hi => ?_⟩
    cases hi
    exact ⟨_, rfl, busyStatusWord_fields _⟩
  | byteRead sp i | wordRead sp i => exact ⟨rfl, by simp, by simp⟩
  | regWrite i v | byteWrite sp i v | wordWrite sp i v => exact ⟨rfl, fun _ => rfl, by simp⟩
  | hardReset u => exact absurd rfl (hreset u)

end Sys2Proof.Machine

/-! ## The values `ANALYZE` records stay in their ranges (44_analysis.md R190 to R201) -/

namespace Sys2Proof.Machine

/-! ### The histogram -/

theorem rgbSamples_length (m : Memory 8) (n : Nat) : (rgbSamples m n).length = 3 * n := by
  simp [rgbSamples, List.length_flatMap, Nat.mul_comm]

theorem histogram_length (samples : List Byte) : (histogram samples).length = 256 := by
  simp [histogram, Config.histSize]

/-- Every sample is counted at exactly one value. -/
theorem histogram_sum (samples : List Byte) : (histogram samples).sum = samples.length := by
  have hcount : ∀ v ∈ List.range 256,
      samples.count (BitVec.ofNat 8 v) = (samples.map BitVec.toNat : Multiset Nat).count v := by
    intro v hv
    have hvalue : (BitVec.ofNat 8 v).toNat = v := Nat.mod_eq_of_lt (List.mem_range.1 hv)
    rw [← List.count_map_of_injective samples BitVec.toNat (fun _ _ => BitVec.eq_of_toNat_eq), hvalue, Multiset.coe_count]
  calc (histogram samples).sum
      = ∑ v ∈ Finset.range 256, (samples.map BitVec.toNat : Multiset Nat).count v :=
        congrArg List.sum (List.map_congr_left (l := List.range 256) hcount)
    _ = samples.length := by
        rw [Multiset.sum_count_eq_card fun v hv => ?_, Multiset.coe_card, List.length_map]
        obtain ⟨x, -, rfl⟩ := List.mem_map.1 hv
        exact Finset.mem_range.2 x.isLt

theorem sum_odd_entries_le_sum (n : Nat) (h : List Nat) :
    ((List.range n).map fun k => h.getD (2 * k + 1) 0).sum ≤ h.sum := by
  induction n generalizing h with
  | zero => exact Nat.zero_le _
  | succ n ih =>
    match h with
    | [] | [_] => simp
    | _ :: b :: rest =>
      rw [List.range_succ_eq_map, List.map_cons, List.map_map, List.sum_cons, List.sum_cons, List.sum_cons]
      exact (Nat.add_le_add_left (ih rest) b).trans (Nat.le_add_left _ _)

theorem lsbOnesOf_le_sum (h : List Nat) : lsbOnesOf h ≤ h.sum := sum_odd_entries_le_sum 128 h

theorem foldl_max_le (h : List Nat) (a : Nat) : h.foldl max a ≤ max a h.sum := by
  induction h generalizing a with
  | nil => simp
  | cons x h ih =>
    have := ih (max a x)
    simp only [List.foldl_cons, List.sum_cons]
    omega

theorem histMaxOf_le_sum (h : List Nat) : histMaxOf h ≤ h.sum :=
  (foldl_max_le h 0).trans (Nat.max_le.2 ⟨Nat.zero_le _, le_rfl⟩)

theorem biasDistance_le {T ones : Nat} (h : ones ≤ T) : biasDistance T ones ≤ T := by unfold biasDistance; omega

theorem lsbBiasQ16_le {T D : Nat} (h : D ≤ T) : lsbBiasQ16 T D ≤ 65536 :=
  Nat.div_le_of_le_mul (Nat.mul_le_mul_right 65536 h)

/-! ### The entropy of 256 values is at most 8 bits -/

/-- One value's share of `pow_sum_le`: with `T = n*k*x` it is the `k`-th power of `x ≤ exp (x - 1)`. -/
theorem pow_le_mul_exp {T n : ℝ} (hT : 0 ≤ T) (hn : 0 < n) (k : Nat) :
    T ^ k ≤ n ^ k * (k : ℝ) ^ k * Real.exp (T / n - k) := by
  obtain rfl | hk := Nat.eq_zero_or_pos k
  · simpa using div_nonneg hT hn.le
  have hk' : (0 : ℝ) < k := Nat.cast_pos.2 hk
  have hx : T / (n * k) ≤ Real.exp (T / (n * k) - 1) := by simpa using Real.add_one_le_exp (T / (n * k) - 1)
  calc T ^ k = n ^ k * (k : ℝ) ^ k * (T / (n * k)) ^ k := by rw [← mul_pow, ← mul_pow]; field_simp
    _ ≤ n ^ k * (k : ℝ) ^ k * Real.exp (T / (n * k) - 1) ^ k := by gcongr
    _ = n ^ k * (k : ℝ) ^ k * Real.exp (T / n - k) := by rw [← Real.exp_nat_mul]; congr 2; field_simp

theorem pow_sum_le_mul_exp {T n : ℝ} (hT : 0 ≤ T) (hn : 0 < n) (h : List Nat) :
    T ^ h.sum ≤ n ^ h.sum * ((h.map fun k => k ^ k).prod : Nat) * Real.exp (h.length * (T / n) - h.sum) := by
  induction h with
  | nil => simp
  | cons k h ih =>
    have hexp : Real.exp ((k :: h).length * (T / n) - (k :: h).sum) =
        Real.exp (T / n - k) * Real.exp (h.length * (T / n) - h.sum) := by
      rw [← Real.exp_add]; push_cast [List.length_cons, List.sum_cons]; congr 1; ring
    rw [hexp, List.sum_cons, List.map_cons, List.prod_cons, pow_add, pow_add]
    calc T ^ k * T ^ h.sum
        ≤ (n ^ k * (k : ℝ) ^ k * Real.exp (T / n - k)) *
          (n ^ h.sum * ((h.map fun k => k ^ k).prod : Nat) * Real.exp (h.length * (T / n) - h.sum)) := by
          gcongr
          exact pow_le_mul_exp hT hn k
      _ = _ := by push_cast; ring

/-- `T^T` is at most `n^T` times the product of the `h[v]^h[v]` over `n` values with the sum `T`: the entropy is at
most the logarithm of `n`. -/
theorem sum_pow_sum_le (h : List Nat) : h.sum ^ h.sum ≤ h.length ^ h.sum * (h.map fun k => k ^ k).prod := by
  obtain hlen | hlen := Nat.eq_zero_or_pos h.length
  · simp [List.length_eq_zero_iff.1 hlen]
  have hlen' : (0 : ℝ) < h.length := Nat.cast_pos.2 hlen
  have hbound := pow_sum_le_mul_exp (Nat.cast_nonneg h.sum) hlen' h
  rw [mul_div_cancel₀ _ hlen'.ne', sub_self, Real.exp_zero, mul_one] at hbound
  exact_mod_cast hbound

/-- The test of R192 with any exponent `E` in place of 65536 fails above `8*E`. -/
theorem le_of_entropy_test {T P q E : Nat} (hT : 0 < T) (hP : 0 < P) (hbound : T ^ T ≤ 256 ^ T * P)
    (htest : (2 ^ T) ^ q * P ^ E ≤ (T ^ T) ^ E) : q ≤ 8 * E := by
  have hbits : (256 ^ T) ^ E = (2 ^ T) ^ (8 * E) := by
    rw [show 256 = 2 ^ 8 from rfl, ← pow_mul, ← pow_mul, ← pow_mul]; ring
  have hle : (2 ^ T) ^ q * P ^ E ≤ (2 ^ T) ^ (8 * E) * P ^ E := by
    rw [← hbits, ← mul_pow]
    exact htest.trans (Nat.pow_le_pow_left hbound E)
  exact (Nat.pow_le_pow_iff_right (Nat.one_lt_two_pow hT.ne')).1 (Nat.le_of_mul_le_mul_right hle (pow_pos hP E))

theorem le_of_entropyAtLeast {h : List Nat} (hlen : h.length = 256) (hpos : 0 < h.sum) {q : Nat}
    (hq : entropyAtLeast h.sum h q = true) : q ≤ 524288 := by
  have hP : 0 < (h.map fun k => k ^ k).prod := List.prod_pos (by simpa using fun k _ => Nat.pow_self_pos)
  exact le_of_entropy_test (E := 65536) hpos hP (hlen ▸ sum_pow_sum_le h) (of_decide_eq_true hq)

theorem entropySearch_le {T b : Nat} {h : List Nat} (hb : ∀ q, entropyAtLeast T h q = true → q ≤ b) (bits : Nat) :
    ∀ q ≤ b, entropySearch T h bits q ≤ b := by
  induction bits with
  | zero => exact fun _ hq => hq
  | succ bits ih =>
    intro q hq
    refine ih _ ?_
    split
    next hnext => exact hb _ hnext
    · exact hq

theorem entropyQ16_le {h : List Nat} (hlen : h.length = 256) (hpos : 0 < h.sum) : entropyQ16 h.sum h ≤ 524288 :=
  entropySearch_le (fun _ => le_of_entropyAtLeast hlen hpos) 20 0 (Nat.zero_le _)

end Sys2Proof.Machine

/-! ## Every step keeps `State.Inv`

`STATUS` apart, the invariant also holds while a command runs (`State.DataInv`): each named operation that the rules
of the commands are made of keeps it, and completion and `raise` turn it into `State.Inv`. -/

namespace Sys2Proof.Machine

open Sys2Proof.Claims

/-! ### Sizes: what the commands' tests and the generator guarantee -/

/-- A sample of an image that fits lies inside `PIX`. -/
theorem off_lt_pixBytes {s : State} (hfits : 4 * s.pixels ≤ s.pixBytes) {j : Nat} (hj : j < s.rgbCount) :
    off j < s.pixBytes := ((off_lt_iff j s.pixels).2 hj).trans_le hfits

theorem rgbCount_lt {s : State} (hfits : 4 * s.pixels ≤ s.pixBytes) : s.rgbCount < 4294967296 := by
  have hsize := s.pixSize.isLt
  unfold State.pixBytes at hfits
  unfold State.rgbCount
  omega

/-- Once the tests on the image pass, the image fits `PIX`. -/
theorem fits_of_imageTests {tests : Tests} {s : State} (h : firstFailing tests = none)
    (hsub : ∀ t ∈ imageTests s, t ∈ tests) : 4 * s.pixels ≤ s.pixBytes :=
  Nat.le_of_not_lt (not_of_mem_of_firstFailing_eq_none .imageTooLarge h (hsub _ (by simp [imageTests])))

theorem payLen_le_of_encTests {s : State} (h : firstFailing (encTests s) = none) : s.payLen.toNat ≤ 10000 :=
  Nat.le_of_not_lt (not_of_mem_of_firstFailing_eq_none .overPayloadMax h (by simp [encTests, Config.payMax]))

theorem payLen_le_of_xmaskTests {s : State} (h : firstFailing (xmaskTests s) = none) : s.payLen.toNat ≤ 10000 :=
  Nat.le_of_not_lt (not_of_mem_of_firstFailing_eq_none .lengthTooLarge h (by simp [xmaskTests, Config.payMax]))

theorem posCnt_le_of_genposTests {s : State} (h : firstFailing (genposTests s) = none) : s.posCnt.toNat ≤ 80032 :=
  Nat.le_of_not_lt (not_of_mem_of_firstFailing_eq_none .countTooLarge h (by simp [genposTests, Config.posMax]))

theorem genPosLoop_length_le (N count steps : Nat) :
    ∀ (x : Nat) (P : List Nat), P.length ≤ count → (genPosLoop N count steps x P).length ≤ count := by
  induction steps with
  | zero => exact fun _ _ hP => hP
  | succ steps ih =>
    intro x P hP
    unfold genPosLoop
    split
    next hmore =>
      split
      · refine ih _ _ ?_
        rw [List.length_append, List.length_singleton]
        exact hmore
      · exact ih _ _ hP
    · exact hP

/-- The generator never returns more positions than asked for. -/
theorem genPos_length_le (s : State) (count : Nat) : (s.genPos count).length ≤ count :=
  (genPosLoop_length_le _ _ _ _ _ (Nat.zero_le _)).trans (Nat.min_le_left count s.rgbCount)

/-- A delivered payload fits `PAY`. -/
theorem length_le_of_unframe {get : Nat → Bool} {avail : Nat} {B : List Byte} (h : unframe get avail = .ok B) :
    B.length ≤ 10000 := by
  obtain ⟨-, he⟩ | ⟨-, -, he⟩ | ⟨-, -, he⟩ | ⟨-, -, -, -, he⟩ | ⟨-, hlen, -, hok⟩ := unframe_cases get avail
  case inr.inr.inr.inr =>
    rw [hok] at h
    cases h
    simpa using hlen
  all_goals exact nomatch he.symm.trans h

/-- A result that passes the filter is the decoder's. -/
theorem eq_ok_of_plausibleResult {r : Except CmdError (List Byte)} {B : List Byte} (h : plausibleResult r = some B) :
    r = .ok B := by
  unfold plausibleResult at h
  split at h
  · split at h
    · cases h
      rfl
    · cases h
  · cases h

/-! ### Loops of writes to `PIX` -/

theorem wf_embedBits {size L : Nat} {pos : Nat → Nat} {m : Memory 8} (hm : Memory.wf size m) (F : Nat → Bool)
    (hpos : ∀ j < L, pos j < size) : Memory.wf size (embedBits pos F L m) :=
  wf_loop pos (fun j x => setBit0 x (F j)) hm L hpos

theorem wf_embedSymbols {size K : Nat} {m : Memory 8} (hm : Memory.wf size m) (F : Nat → Bool)
    (hoff : ∀ k < K, off k < size) : Memory.wf size (embedSymbols F K m) :=
  wf_loop off (fun k x => setSymbol x (F (2 * k)) (F (2 * k + 1))) hm K hoff

theorem wf_nudgePixel {size p : Nat} {m : Memory 8} (hm : Memory.wf size m) (hp : 4 * p + 3 ≤ size) (d : Int) :
    Memory.wf size (nudgePixel p d m) :=
  wf_loop (4 * p + ·) (fun _ x => clampAdd x d) hm 3 fun c hc => by omega

theorem noisePixel_pixBytes (s : State) (p : Nat) : (noisePixel s p).pixBytes = s.pixBytes := by
  unfold noisePixel
  split <;> rfl

/-! ### Ranges of result registers -/

theorem toNat_ofNat_le {n x b : Nat} (h : x ≤ b) : (BitVec.ofNat n x).toNat ≤ b :=
  (BitVec.toNat_ofNat x n ▸ Nat.mod_le x (2 ^ n)).trans h

/-- The capacity of any image is in the range of 10_state.md R32, so the register holds it exactly. -/
theorem cap_range (s : State) : -32 ≤ s.cap ∧ s.cap ≤ 1610563552 := by
  have hpixels : s.width.toNat * s.height.toNat ≤ 65535 * 65535 :=
    Nat.mul_le_mul (Nat.le_of_lt_succ s.width.isLt) (Nat.le_of_lt_succ s.height.isLt)
  unfold State.cap Machine.cap Config.capReserve
  rw [Nat.mul_assoc]
  omega

theorem toInt_ofInt_of_range {c : Int} (hlow : -32 ≤ c) (hhigh : c ≤ 1610563552) : (BitVec.ofInt 32 c).toInt = c := by
  rw [BitVec.toInt_ofInt]
  exact Int.bmod_eq_of_le (by omega) (by omega)

/-! ### The invariant apart from `STATUS` -/

/-- `State.Inv` apart from `STATUS`: completing here would meet it. -/
def State.DataInv (s : State) : Prop := s.complete.Inv

namespace State.DataInv

variable {s : State}

theorem accept (h : s.Inv) : s.accept.DataInv := { h with idle := rfl, report := fun _ => rfl }

theorem completed (h : s.DataInv) : (Ending.completed s).state.Inv := h

theorem raised (e : CmdError) (h : s.DataInv) : (Ending.raised e s).state.Inv :=
  { h with idle := rfl, report := fun _ => rfl }

theorem checked {tests : Tests} {rule : State → Ending} (h : s.DataInv)
    (hpass : firstFailing tests = none → (rule s).state.Inv) : (checked tests s rule).state.Inv :=
  checked_state_of (fun e => h.raised e) hpass

/-! ### Updates -/

theorem setPix {m : Memory 8} (h : s.DataInv) (hm : Memory.wf s.pixBytes m) : (s.setPix m).DataInv :=
  { h with pix := hm }

theorem setPay {m : Memory 8} (h : s.DataInv) (hm : Memory.wf 10000 m) : (s.setPay m).DataInv := { h with pay := hm }

theorem setPayLen (n : Nat) (h : s.DataInv) : (s.setPayLen n).DataInv := { h with }

theorem setSchemeUsed (c : Codec) (h : s.DataInv) : (s.setSchemeUsed c).DataInv := { h with }

theorem setPlaus (b : Bool) (h : s.DataInv) : (s.setPlaus b).DataInv := { h with }

theorem setCapacity {c : Int} (h : s.DataInv) (hc : -32 ≤ c ∧ c ≤ 1610563552) : (s.setCapacity c).DataInv :=
  { h with capacity := (toInt_ofInt_of_range hc.1 hc.2).symm ▸ hc }

theorem afterDraw (h : s.DataInv) : s.afterDraw.DataInv := { h with }

theorem storePositions {P : List Nat} (h : s.DataInv) (hP : P.length ≤ 80032) : (s.storePositions P).DataInv :=
  { h with pos := wf_memStore _ h.pos (by simpa using hP) }

/-- The registers of `ANALYZE` for the histogram `hs` of at least one sample. -/
theorem recordAnalysis {hs : List Nat} (h : s.DataInv) (hlen : hs.length = 256) (hpos : 0 < hs.sum)
    (hlt : hs.sum < 4294967296) (r1 r2 : DrawWord) : (s.recordAnalysis hs.sum hs r1 r2).DataInv :=
  have htotal : (BitVec.ofNat 32 hs.sum).toNat = hs.sum := Nat.mod_eq_of_lt hlt
  { h with
    hist := wf_memStore _ h.hist (by simp [hlen])
    ones := (toNat_ofNat_le (lsbOnesOf_le_sum hs)).trans htotal.ge
    entropy := toNat_ofNat_le (entropyQ16_le hlen hpos)
    lsbBias := toNat_ofNat_le (lsbBiasQ16_le (biasDistance_le (lsbOnesOf_le_sum hs)))
    chiSq := toNat_ofNat_le (Nat.min_le_left _ _)
    prob := toNat_ofNat_le (Nat.min_le_left _ _)
    histMax := (toNat_ofNat_le (histMaxOf_le_sum hs)).trans htotal.ge }

theorem deliver {B : List Byte} (c : Codec) (h : s.DataInv) (hB : B.length ≤ 10000) : (s.deliver c B).DataInv :=
  ((h.setPay (wf_memStore _ h.pay (by simpa using hB))).setPayLen B.length).setSchemeUsed c

/-! ### Rules -/

theorem encodeSeq1 (h : s.DataInv) (hfits : 4 * s.pixels ≤ s.pixBytes) : (encodeSeq1 s).state.Inv := by
  refine h.checked fun hpass => (h.setPix (wf_embedBits h.pix _ fun j hj => off_lt_pixBytes hfits ?_)).completed
  exact hj.trans_le (Nat.le_of_not_lt (not_of_mem_of_firstFailing_eq_none .payloadExhausted hpass (by simp)))

theorem encodeSeq2 (h : s.DataInv) (hfits : 4 * s.pixels ≤ s.pixBytes) : (encodeSeq2 s).state.Inv := by
  refine h.checked fun hpass => (h.setPix (wf_embedSymbols h.pix _ fun k hk => off_lt_pixBytes hfits ?_)).completed
  exact hk.trans_le (Nat.le_of_not_lt (not_of_mem_of_firstFailing_eq_none .payloadExhausted hpass (by simp)))

theorem encodeRand (h : s.DataInv) (himg : 0 < s.pixels) (hfits : 4 * s.pixels ≤ s.pixBytes)
    (hlen : s.payLen.toNat ≤ 10000) : (encodeRand s).state.Inv := by
  have hframe : frameLen s.payLen.toNat ≤ 80032 := by unfold frameLen Config.prefixBits; omega
  have hstored := h.storePositions ((genPos_length_le s _).trans hframe)
  unfold Machine.encodeRand
  refine hstored.checked fun hpass => (hstored.setPix (wf_embedBits h.pix _ fun j hj => ?_)).completed
  have hlong : frameLen s.payLen.toNat ≤ (s.genPos (frameLen s.payLen.toNat)).length :=
    Nat.le_of_not_lt (not_of_mem_of_firstFailing_eq_none .payloadExhausted hpass (by simp))
  obtain ⟨k, hk, hoff⟩ := exists_off_of_mem_genPos himg (List.getElem_mem (hj.trans_le hlong))
  rw [List.getD_eq_getElem _ _ (hj.trans_le hlong), hoff]
  exact off_lt_pixBytes hfits hk

theorem finishDecode {r : Except CmdError (List Byte)} (c : Codec) (h : s.DataInv)
    (hr : ∀ B, r = .ok B → B.length ≤ 10000) : (finishDecode c s r).state.Inv := by
  cases r with
  | ok B => exact (h.deliver c (hr B rfl)).completed
  | error e => exact (h.setPayLen 0).raised e

theorem storeDecPositions (h : s.DataInv) : (s.storePositions s.decPositions).DataInv :=
  h.storePositions ((genPos_length_le s _).trans (by decide))

theorem decodeAuto (h : s.DataInv) : (decodeAuto s).state.Inv := by
  unfold Machine.decodeAuto
  split
  next h1 => exact (h.deliver .lsb (length_le_of_unframe (eq_ok_of_plausibleResult h1))).completed
  · split
    next h2 => exact (h.deliver .lsb2 (length_le_of_unframe (eq_ok_of_plausibleResult h2))).completed
    · split
      next h3 => exact (h.storeDecPositions.deliver .random (length_le_of_unframe h3)).completed
      · exact (h.storeDecPositions.setPayLen 0).raised .autoExhausted

theorem analyze (h : s.DataInv) (himg : 0 < s.pixels) (hfits : 4 * s.pixels ≤ s.pixBytes) (r1 r2 : DrawWord) :
    (s.afterDraw.afterDraw.recordAnalysis s.rgbCount (histogram (rgbSamples s.pix s.pixels)) r1 r2).DataInv := by
  have hsum : (histogram (rgbSamples s.pix s.pixels)).sum = s.rgbCount := by
    rw [histogram_sum, rgbSamples_length]
    rfl
  have hpos : 0 < s.rgbCount := Nat.mul_pos (by decide) himg
  have hlt := rgbCount_lt hfits
  rw [← hsum] at hpos hlt ⊢
  exact h.afterDraw.afterDraw.recordAnalysis (histogram_length _) hpos hlt r1 r2

theorem noisePixel {p : Nat} (h : s.DataInv) (hp : 4 * p + 3 ≤ s.pixBytes) : (noisePixel s p).DataInv := by
  unfold Machine.noisePixel
  split
  · exact h.afterDraw.afterDraw.setPix (wf_nudgePixel h.pix hp _)
  · exact h.afterDraw

theorem noise_loop (l : List Nat) (h : s.DataInv) (hl : ∀ p ∈ l, 4 * p + 3 ≤ s.pixBytes) :
    (l.foldl Machine.noisePixel s).DataInv := by
  induction l generalizing s with
  | nil => exact h
  | cons p l ih =>
    obtain ⟨hp, hl⟩ := List.forall_mem_cons.1 hl
    exact ih (h.noisePixel hp) fun q hq => noisePixel_pixBytes s p ▸ hl q hq

end State.DataInv

/-! ### Resets -/

/-- Every register is 0 and the memories stay. -/
theorem State.Inv.resetRegisters {s : State} (h : s.Inv) : s.resetRegisters.Inv where
  pix := h.pix
  pay := h.pay
  key := h.key
  pos := h.pos
  hist := h.hist
  idle := rfl
  report := nofun
  capacity := by simp [State.reset]
  ones := le_rfl
  entropy := Nat.zero_le _
  lsbBias := Nat.zero_le _
  chiSq := Nat.zero_le _
  prob := Nat.zero_le _
  histMax := le_rfl

/-- Whatever contents the reset input brings are cut to the spaces. -/
theorem State.Inv.hardReset {s : State} (u : PowerUp) (h : s.Inv) : (s.hardReset u).Inv :=
  { h.resetRegisters with
    pix := wf_memOfCells _ _
    pay := wf_memOfCells _ _
    key := wf_memOfCells _ _
    pos := wf_memOfCells _ _
    hist := wf_memOfCells _ _ }

/-! ### Commands and host operations -/

/-- Every command keeps the invariant. -/
theorem exec_inv {i : Instr} {s t : State} (hs : s.Inv) (ht : exec i s = .next t) : t.Inv := by
  have h := State.DataInv.accept hs
  have henc : firstFailing (encTests s.accept) = none → 4 * s.accept.pixels ≤ s.accept.pixBytes := fun hpass =>
    fits_of_imageTests hpass fun test hmem => by simp [encTests, hmem]
  have himage : firstFailing (imageTests s.accept) = none → 4 * s.accept.pixels ≤ s.accept.pixBytes := fun hpass =>
    fits_of_imageTests hpass fun _ hmem => hmem
  cases i <;> cases ht
  case nop => exact h.completed
  case cap => exact (h.setCapacity (cap_range _)).completed
  case encLsb => exact h.checked fun hpass => h.encodeSeq1 (henc hpass)
  case encLsb2 => exact h.checked fun hpass => h.encodeSeq2 (henc hpass)
  case encRandom =>
    exact h.checked fun hpass =>
      h.encodeRand (pixels_pos_of_encTests hpass) (henc hpass) (payLen_le_of_encTests hpass)
  case decLsb | decLsb2 => exact h.checked fun _ => h.finishDecode _ fun _ => length_le_of_unframe
  case decRandom => exact h.checked fun _ => h.storeDecPositions.finishDecode _ fun _ => length_le_of_unframe
  case decAuto => exact h.checked fun _ => h.decodeAuto
  case analyze =>
    refine h.checked fun hpass => (h.analyze ?_ (himage hpass) _ _).completed
    exact Nat.pos_of_ne_zero (not_of_mem_of_firstFailing_eq_none .noImage hpass (by simp [imageTests]))
  case genpos =>
    refine h.checked fun hpass => ?_
    have hstored := h.storePositions ((genPos_length_le s.accept _).trans (posCnt_le_of_genposTests hpass))
    dsimp only
    split
    · exact hstored.raised _
    · exact hstored.completed
  case xmask =>
    refine h.checked fun hpass => (h.setPay (wf_memStore _ h.pay ?_)).completed
    simpa using payLen_le_of_xmaskTests hpass
  case noise =>
    refine h.checked fun hpass => (h.noise_loop _ fun p hp => ?_).completed
    have := himage hpass
    have := List.mem_range.1 hp
    omega
  case plaus => exact (h.setPlaus _).completed
  case srst => exact hs.resetRegisters

/-- A rejected word changes `STATUS` only. -/
theorem rejectCommand_inv (r : Reject) {s : State} (h : s.Inv) : (rejectCommand r s).Inv :=
  (State.DataInv.accept h).raised _

/-- A register write changes no result register, and clears `DONE` only together with the report. -/
theorem regWriteEffect_inv {s : State} (i : Nat) (v : Word) (h : s.Inv) : (regWriteEffect s i v).Inv := by
  rw [regWriteEffect_eq]
  refine { h with idle := ?_, report := ?_ } <;> dsimp only <;> split
  · exact h.idle
  · exact h.idle
  · exact nofun
  · exact h.report

theorem byteWriteEffect_inv {s : State} (sp : ByteSpace) (i : Nat) (v : Byte) (h : s.Inv) :
    (byteWriteEffect s sp i v).Inv := by
  obtain hi | hi := Nat.lt_or_ge i (byteSize s sp)
  · rw [byteWriteEffect_of_lt hi]
    cases sp with
    | pix => exact { h with pix := wf_memWrite h.pix hi v }
    | pay => exact { h with pay := wf_memWrite h.pay hi v }
    | key => exact { h with key := wf_memWrite h.key hi v }
  · rwa [byteWriteEffect_of_le hi]

/-- A host operation that issues no command keeps the invariant; between steps `BUSY` = 0, so its effect is the idle
one. -/
theorem hostEffect_inv {s : State} (op : HostOp) (h : s.Inv) : (hostEffect s op).Inv := by
  unfold hostEffect
  rw [h.idle]
  cases op with
  | regRead i | byteRead sp i | wordRead sp i => exact { h with }
  | regWrite i v => exact regWriteEffect_inv i v h
  | byteWrite sp i v => exact byteWriteEffect_inv sp i v h
  | wordWrite sp i v => exact h
  | hardReset u => exact h.hardReset u

theorem State.Inv.consume {s : State} (rest : List HostOp) (h : s.Inv) : { s with host := rest }.Inv := { h with }

/-- Settles O25: by the kinds of step, a command by its updates and the bounds its tests guarantee. -/
theorem stepKeepsTheInvariant : Obligations.StepKeepsTheInvariant := by
  intro s t h ht
  obtain ⟨-, hstep⟩ | ⟨_, rest, _, -, -, -, hstep⟩ | ⟨_, rest, _, -, -, -, hstep⟩ | ⟨_, rest, -, -, hstep⟩ :=
    step_cases s <;> rw [hstep] at ht
  · cases ht
    exact h
  · exact exec_inv (h.consume rest) ht
  · cases ht
    exact rejectCommand_inv _ (h.consume rest)
  · cases ht
    exact hostEffect_inv _ (h.consume rest)

end Sys2Proof.Machine

/-! ## The command words: the decoder, the encoder and the table (30_encoding.md R80 to R86)

A word is made up of its fields again, so what `decodeOp` answers on `OP` and `SCHEME` fixes the word: a command's own,
or 0x00000032. Every other word is illegal. -/

namespace Sys2Proof.Machine

open Sys2Proof.Claims Sys2Proof.Laws

/-! ### A word and its fields -/

theorem cmdWord_cmdFields (w : Word) : cmdWord (cmdFields w) = w := by
  apply BitVec.eq_of_toNat_eq
  simp only [cmdWord, cmdFields, toNat_append_eq, BitVec.extractLsb'_toNat, Nat.shiftRight_eq_div_pow]
  omega

/-- A word whose fields have the values of `f` is the word of `f`. -/
theorem cmdWord_eq_of_fields {w : Word} {f : CmdFields} (hrsv : f.rsv = (cmdFields w).rsv)
    (hop : f.op.toNat = (cmdFields w).op.toNat) (hscheme : f.scheme.toNat = (cmdFields w).scheme.toNat) :
    cmdWord f = w := by
  have hfields : f = cmdFields w := by
    cases f
    cases hrsv
    cases BitVec.eq_of_toNat_eq hop
    cases BitVec.eq_of_toNat_eq hscheme
    rfl
  rw [hfields, cmdWord_cmdFields]

/-! ### The decoder and the encoder -/

/-- The decoder, by whether `RSV` is 0. -/
theorem decode_cases (w : Word) :
    ((cmdFields w).rsv = 0 ∧ decode w = decodeOp (cmdFields w).op.toNat (cmdFields w).scheme.toNat) ∨
      ((cmdFields w).rsv ≠ 0 ∧ decode w = .error .illegalCommand) := by
  by_cases h : (cmdFields w).rsv = 0
  · exact .inl ⟨h, if_pos h⟩
  · exact .inr ⟨h, if_neg h⟩

theorem fields_of_decodeOp_ok {op scheme : Nat} {i : Instr} (h : decodeOp op scheme = .ok i) :
    (instrFields i).rsv = 0 ∧ (instrFields i).op.toNat = op ∧ (instrFields i).scheme.toNat = scheme := by
  unfold decodeOp at h
  split at h <;> cases h <;> exact ⟨rfl, rfl, rfl⟩

theorem fields_of_decodeOp_autoOnEncode {op scheme : Nat} (h : decodeOp op scheme = .error .autoOnEncode) :
    op = 2 ∧ scheme = 3 := by
  unfold decodeOp at h
  split at h <;> cases h
  exact ⟨rfl, rfl⟩

theorem encodesLegally : ∀ i, EncodesLegally.Statement i
  | .nop => EncodesLegally.nop
  | .cap => EncodesLegally.cap
  | .encLsb => EncodesLegally.encLsb
  | .encLsb2 => EncodesLegally.encLsb2
  | .encRandom => EncodesLegally.encRandom
  | .decLsb => EncodesLegally.decLsb
  | .decLsb2 => EncodesLegally.decLsb2
  | .decRandom => EncodesLegally.decRandom
  | .decAuto => EncodesLegally.decAuto
  | .analyze => EncodesLegally.analyze
  | .genpos => EncodesLegally.genpos
  | .xmask => EncodesLegally.xmask
  | .noise => EncodesLegally.noise
  | .plaus => EncodesLegally.plaus
  | .srst => EncodesLegally.srst

theorem decode_encode (i : Instr) : decode (encode i) = .ok i := by
  obtain ⟨-, -, h⟩ := encodesLegally i
  exact h

/-- A word is legal exactly when it is a command's (R81). -/
theorem decode_eq_ok_iff {w : Word} {i : Instr} : decode w = .ok i ↔ encode i = w := by
  refine ⟨fun h => ?_, fun h => h ▸ decode_encode i⟩
  obtain ⟨hzero, hd⟩ | ⟨-, hd⟩ := decode_cases w <;> rw [hd] at h
  · obtain ⟨hrsv, hop, hscheme⟩ := fields_of_decodeOp_ok h
    exact cmdWord_eq_of_fields (hrsv.trans hzero.symm) hop hscheme
  · cases h

/-- `ENC` with scheme `auto` is one word (R86). -/
theorem decode_eq_autoOnEncode_iff {w : Word} : decode w = .error .autoOnEncode ↔ w = 0x00000032#32 := by
  refine ⟨fun h => ?_, fun h => h ▸ rfl⟩
  obtain ⟨hzero, hd⟩ | ⟨-, hd⟩ := decode_cases w <;> rw [hd] at h
  · obtain ⟨hop, hscheme⟩ := fields_of_decodeOp_autoOnEncode h
    exact (cmdWord_eq_of_fields (f := { rsv := 0, scheme := 3, op := 2 }) hzero.symm hop.symm hscheme.symm).symm
  · cases h

/-! ### The table of R84 -/

/-- The table's pairs are the commands with their words. -/
theorem mem_commandTable_iff {w : Word} {i : Instr} : (w, i) ∈ commandTable ↔ encode i = w := by
  have hrow : ∀ row ∈ commandTable, encode row.2 = row.1 := by decide
  have hall : (encode i, i) ∈ commandTable := by cases i <;> decide
  exact ⟨hrow (w, i), fun h => h ▸ hall⟩

theorem decode_eq_ok_iff_mem {w : Word} {i : Instr} : decode w = .ok i ↔ (w, i) ∈ commandTable :=
  decode_eq_ok_iff.trans mem_commandTable_iff.symm

/-- What neither is in the table nor has R86's cause falls under R85. -/
theorem decode_eq_illegalCommand_iff {w : Word} :
    decode w = .error .illegalCommand ↔ w ≠ 0x00000032#32 ∧ ∀ i, (w, i) ∉ commandTable := by
  simp only [ne_eq, ← decode_eq_autoOnEncode_iff, ← decode_eq_ok_iff_mem]
  cases decode w with
  | ok i => simp
  | error r => cases r <;> simp

/-- Settles O1: the fields an answer of `decodeOp` fixes make up the word again. -/
theorem decodeFollowsTheCommandTable : Obligations.DecodeFollowsTheCommandTable :=
  fun _ => ⟨fun _ => decode_eq_ok_iff_mem, fun _ => decode_eq_ok_iff, decode_eq_autoOnEncode_iff,
    decode_eq_illegalCommand_iff⟩

/-- Settles O2: the two directions of O1 at the word `encode i`. -/
theorem encodedCommandDecodesBack : Obligations.EncodedCommandDecodesBack :=
  fun i => ⟨mem_commandTable_iff.2 rfl, decode_encode i⟩

/-! ### Rejected words -/

theorem rejectCommand_illegalCommand (s : State) :
    rejectCommand .illegalCommand s = s.reporting (some .illegalCommand) := raise_accept _ s

theorem rejectCommand_autoOnEncode (s : State) :
    rejectCommand .autoOnEncode s = s.reporting (some .autoOnEncode) := raise_accept _ s

/-- The three conditions of R85: `RSV` not 0, a reserved operation, a scheme on an operation that takes none. -/
abbrev HasIllegalFields (w : Word) : Prop :=
  w.toNat / 64 ≠ 0 ∨ (9 ≤ w.toNat % 16 ∧ w.toNat % 16 ≤ 14) ∨
    (w.toNat / 16 % 4 ≠ 0 ∧ w.toNat % 16 ∈ [0, 1, 4, 5, 6, 7, 8, 15])

theorem not_hasIllegalFields_encode (i : Instr) : ¬HasIllegalFields (encode i) := by cases i <;> decide

/-- A word with illegal fields is no command's and not R86's, so R85 is the one answer left. -/
theorem decode_of_hasIllegalFields {w : Word} (h : HasIllegalFields w) : decode w = .error .illegalCommand := by
  cases hd : decode w with
  | ok i => exact absurd (decode_eq_ok_iff.1 hd ▸ h) (not_hasIllegalFields_encode i)
  | error r =>
    cases r with
    | illegalCommand => rfl
    | autoOnEncode => exact absurd (decode_eq_autoOnEncode_iff.1 hd ▸ h) (by decide)

/-- Settles O3: the step rejects the word, and a rejection is a report. -/
theorem illegalWordOnlyReports : Obligations.IllegalWordOnlyReports := by
  intro s w rest hidle hh hfields
  rw [step_issue hh hidle, issue_error (decode_of_hasIllegalFields hfields), rejectCommand_illegalCommand]

/-- Settles O4: the word of R86 is rejected with its own cause. -/
theorem autoOnEncodeOnlyReports : Obligations.AutoOnEncodeOnlyReports := by
  intro s rest hidle hh
  rw [step_issue hh hidle, issue_error (decode_eq_autoOnEncode_iff.2 rfl), rejectCommand_autoOnEncode]

end Sys2Proof.Machine

/-! ## The framer: the framed bits, and unframing them (40_framer.md)

Reading bits back most significant first is summing them with their weights, and on the framed stream it gives the
length and the characters. `Unframe` ends by the first of its tests that fails. -/

namespace Sys2Proof.Machine

/-! ### The framed bits (R100) -/

theorem toNat_getLsbD {w : Nat} (x : BitVec w) (k : Nat) : (x.getLsbD k).toNat = x.toNat / 2 ^ k % 2 := by
  rw [← BitVec.testBit_toNat, Nat.toNat_testBit]

/-- The first 32 framed bits are those of the length. -/
theorem frameBit_of_lt {j : Nat} (hj : j < 32) (n : Nat) (B : Nat → Byte) : frameBit n B j = n.testBit (31 - j) :=
  if_pos hj

/-- Framed bit `b` of character `i`. -/
theorem frameBit_char {b : Nat} (hb : b < 8) (n : Nat) (B : Nat → Byte) (i : Nat) :
    frameBit n B (32 + 8 * i + b) = (B i).getLsbD (7 - b) := by
  have hi : (32 + 8 * i + b - 32) / 8 = i := by omega
  have hmod : (32 + 8 * i + b - 32) % 8 = b := by omega
  unfold frameBit
  rw [if_neg (by omega), hi, hmod]

/-- Settles O41: a bit of a number is a quotient's remainder, and the worked example is evaluated. -/
theorem frameBitsFollowTheRule : Obligations.FrameBitsFollowTheRule := by
  refine ⟨fun n B j _ => ?_, by decide⟩
  unfold frameBit
  split
  · exact Nat.toNat_testBit n (31 - j)
  · exact toNat_getLsbD _ _

/-! ### Unframing the framed bits (R106) -/

theorem readPrefix_frameBit {n : Nat} (hn : n < 4294967296) (B : Nat → Byte) : readPrefix (frameBit n B) = n := by
  have hread : readPrefix (frameBit n B) = n % 2 ^ 32 :=
    readBits_of_testBit fun j hj => by rw [Nat.zero_add]; exact frameBit_of_lt hj n B
  exact hread.trans (Nat.mod_eq_of_lt hn)

theorem readChar_frameBit (n : Nat) (B : Nat → Byte) (i : Nat) : readChar (frameBit n B) i = B i := by
  have hread : readBits (frameBit n B) (32 + 8 * i) 8 = (B i).toNat % 2 ^ 8 :=
    readBits_of_testBit fun b hb => (frameBit_char hb n B i).trans (BitVec.testBit_toNat _).symm
  unfold readChar
  rw [hread, Nat.mod_eq_of_lt (B i).isLt, BitVec.ofNat_toNat, BitVec.setWidth_eq]

/-- `Unframe` succeeds exactly on a valid length that the available bits hold, with the characters read. -/
theorem unframe_eq_ok_iff {get : Nat → Bool} {avail : Nat} {B : List Byte} :
    unframe get avail = .ok B ↔ 0 < readPrefix get ∧ readPrefix get ≤ 10000 ∧ 32 + 8 * readPrefix get ≤ avail ∧
      B = (List.range (readPrefix get)).map (readChar get) := by
  obtain ⟨hfail, he⟩ | ⟨-, hfail, he⟩ | ⟨-, hfail, he⟩ | ⟨-, -, -, hfail, he⟩ | ⟨hpos, hmax, hfits, hok⟩ :=
    unframe_cases get avail
  case inr.inr.inr.inr =>
    rw [hok, Except.ok.injEq]
    exact ⟨fun h => ⟨hpos, hmax, hfits, h.symm⟩, fun ⟨_, _, _, h⟩ => h.symm⟩
  all_goals
    rw [he]
    exact iff_of_false nofun fun ⟨hpos, hmax, hfits, _⟩ => by omega

/-- Settles O40: the length reads back as itself, and so does each character. -/
theorem unframeInvertsFrame : Obligations.UnframeInvertsFrame := by
  intro n B avail hpos hmax hfits
  have hprefix : readPrefix (frameBit n B) = n := readPrefix_frameBit (by omega) B
  rw [unframe_eq_ok_iff, hprefix]
  exact ⟨hpos, hmax, hfits, List.map_congr_left fun i _ => (readChar_frameBit n B i).symm⟩

/-! ### The errors of `Unframe` in their order (R102, R103) -/

/-- The first test of `Unframe` that holds gives its error: the cases of `unframe_cases` exclude each other. -/
theorem unframe_eq_error {get : Nat → Bool} {avail : Nat} {e : CmdError}
    (h : (avail < 32 ∧ e = .prefixExhausted) ∨ (32 ≤ avail ∧ readPrefix get = 0 ∧ e = .lengthZero) ∨
      (32 ≤ avail ∧ 10000 < readPrefix get ∧ e = .lengthOverMax) ∨
      (32 ≤ avail ∧ 0 < readPrefix get ∧ readPrefix get ≤ 10000 ∧ avail < 32 + 8 * readPrefix get ∧
        e = .payloadExhausted)) :
    unframe get avail = .error e := by
  have hcases := unframe_cases get avail
  obtain ⟨hshort, rfl⟩ | ⟨hlong, hzero, rfl⟩ | ⟨hlong, hover, rfl⟩ | ⟨hlong, hpos, hmax, hrest, rfl⟩ := h <;> grind

/-! ### Bits read back as a sum (30_encoding.md R90) -/

/-- Assembling bits one by one is summing them with their weights. -/
theorem readBits_eq_sum (get : Nat → Bool) (start len : Nat) :
    readBits get start len = ((List.range len).map fun j => (get (start + j)).toNat * 2 ^ (len - 1 - j)).sum := by
  induction len with
  | zero => rfl
  | succ len ih =>
    have hdouble : ∀ j ∈ List.range len,
        (get (start + j)).toNat * 2 ^ (len + 1 - 1 - j) = 2 * ((get (start + j)).toNat * 2 ^ (len - 1 - j)) := by
      intro j hj
      have hj := List.mem_range.1 hj
      rw [show len + 1 - 1 - j = len - 1 - j + 1 by omega, Nat.pow_succ, Nat.mul_comm _ 2, Nat.mul_left_comm]
    rw [readBits_succ, ih, List.range_succ, List.map_append, List.sum_append, List.map_congr_left hdouble,
      List.sum_map_mul_left]
    simp

end Sys2Proof.Machine

/-! ## The decode commands: what their rule does once the checks pass (42_codecs.md R147 to R159)

Each command of an explicit scheme unframes the bits its scheme reads (`schemeBits`), and `DEC.auto` is the first of
the three that the fallback chain accepts. -/

namespace Sys2Proof.Machine

open Sys2Proof.Claims

/-! ### The bits a scheme reads -/

/-- The framed bits a decode command of an explicit scheme reads. -/
def schemeBits (i : Instr) (s : State) : Nat → Bool :=
  if i = .decLsb then seq1Bit s.pix else if i = .decLsb2 then seq2Bit s.pix else randBit s.pix (decPositions s)

theorem readBit_eq (i : Instr) (s : State) (j : Nat) : readBit i s j = (schemeBits i s j).toNat := by
  have hbit0 (x : Byte) : x.toNat % 2 = (bit0 x).toNat := by rw [bit0, toNat_getLsbD, Nat.pow_zero, Nat.div_one]
  unfold readBit schemeBits
  split
  · exact hbit0 _
  · split
    · exact (toNat_getLsbD _ _).symm
    · exact hbit0 _

theorem decodedPrefix_eq (i : Instr) (s : State) : decodedPrefix i s = readPrefix (schemeBits i s) := by
  simp only [decodedPrefix, readBit_eq, readPrefix, readBits_eq_sum, Nat.zero_add, Config.prefixBits]

theorem ofNat_decodedChar (i : Instr) (s : State) (k : Nat) :
    BitVec.ofNat 8 (decodedChar i s k) = readChar (schemeBits i s) k := by
  simp only [decodedChar, readBit_eq, readChar, readBits_eq_sum]

/-- The result of a decode of an explicit scheme: the valid message, or the error of `Unframe`. -/
def trial (i : Instr) (s : State) : Except CmdError (List Byte) := unframe (schemeBits i s) (available i s)

theorem trial_eq_ok_iff {i : Instr} {s : State} {B : List Byte} : trial i s = .ok B ↔ holdsMessage i s B := by
  simp only [trial, unframe_eq_ok_iff, holdsMessage, decodedPrefix_eq, ofNat_decodedChar]

theorem state_decPositions {s : State} (h : 0 < s.pixels) : s.decPositions = decPositions s := state_genPos h 1000

theorem decodeSeq1_eq_trial (s : State) : decodeSeq1 s = trial .decLsb s := rfl

theorem decodeSeq2_eq_trial (s : State) : decodeSeq2 s = trial .decLsb2 s := rfl

theorem decodeRand_eq_trial {s : State} (h : 0 < s.pixels) : decodeRand s = trial .decRandom s := by
  unfold decodeRand
  rw [state_decPositions h]
  rfl

/-! ### The positions a randomized decode stores (41_posgen.md R127, R132) -/

/-- Storing positions that fit the elements of `POS` makes the memory and `POSCNT` hold them. -/
theorem holdsPositions_storePositions {P : List Nat} (s : State) (hlen : P.length < 4294967296)
    (hP : ∀ o ∈ P, o < 4294967296) : holdsPositions s (s.storePositions P) P := by
  have hword {x : Nat} (hx : x < 4294967296) : (BitVec.ofNat 32 x).toNat = x :=
    (BitVec.toNat_ofNat x 32).trans (Nat.mod_eq_of_lt hx)
  refine ⟨hword hlen, fun k hk => ?_, fun k hk => ?_⟩
  · have hget : (P.map (BitVec.ofNat 32)).getD k 0 = BitVec.ofNat 32 (P.getD k 0) := by simp [hk]
    have helem : P.getD k 0 < 4294967296 := by rw [List.getD_eq_getElem _ _ hk]; exact hP _ (List.getElem_mem hk)
    rw [State.storePositions_pos, memRead_memStore, List.length_map, if_pos (by omega), Nat.sub_zero, hget]
    exact hword helem
  · rw [State.storePositions_pos, memRead_memStore, List.length_map, if_neg (by omega)]

theorem holdsPositions_decPositions {s : State} (h : s.HasImage) :
    holdsPositions s (s.storePositions (decPositions s)) (decPositions s) := by
  obtain ⟨himg, hfits⟩ := h
  rw [← state_decPositions himg]
  refine holdsPositions_storePositions s ((genPos_length_le s 1000).trans_lt (by decide)) fun o ho => ?_
  obtain ⟨k, hk, rfl⟩ := exists_off_of_mem_genPos himg ho
  have hsize : s.pixBytes ≤ 4294967296 := by
    have := s.pixSize.isLt
    unfold State.pixBytes
    omega
  exact (off_lt_pixBytes hfits hk).trans_le hsize

/-! ### The rules once the checks pass -/

theorem firstFailing_decTests {s : State} (h : s.DecReady) : firstFailing (decTests s) = none := by
  obtain ⟨⟨himg, hfits⟩, hkey⟩ := h
  have hpos : s.pixels ≠ 0 := himg.ne'
  have hsize : ¬4 * s.pixels > s.pixBytes := hfits.not_gt
  cases hc : s.ctrl.cipherEn with
  | false => simp [decTests, imageTests, cipherTests, hpos, hsize, hc]
  | true =>
    obtain ⟨hsome, hmax⟩ := hkey hc
    have hsome : ¬s.keyLen.toNat = 0 := hsome.ne'
    have hmax : ¬s.keyLen.toNat > Config.keyMax := hmax.not_gt
    simp only [decTests, imageTests, cipherTests, hpos, hsize, hc, hsome, hmax]
    rfl

/-- A command whose rule stands after `DecChecks` runs the rule on the accepted state. -/
theorem runCommand_checked_decTests {s : State} (h : s.DecReady) (rule : State → Ending) :
    runCommand (fun s => checked (decTests s) s rule) s = .next (rule s.accept).state := by
  have hpass : firstFailing (decTests s.accept) = none := firstFailing_decTests h
  rw [runCommand_eq, checked_of_none hpass]

/-- `DEC.random` stores its positions whether or not the decode succeeds; the sequential schemes store none. -/
def positionsStored (i : Instr) (s : State) : State :=
  if i = .decRandom then s.storePositions (decPositions s) else s

/-- A decode command of an explicit scheme delivers its trial's message or reports its trial's error. -/
theorem exec_schemeDec {i : Instr} {s : State} (hi : i ∈ schemeDecCommands) (hs : s.DecReady) :
    exec i s = .next (finishDecode (schemeOf i) (positionsStored i s.accept) (trial i s)).state := by
  have himg : 0 < s.accept.pixels := hs.1.1
  simp only [schemeDecCommands, List.mem_cons, List.not_mem_nil, or_false] at hi
  obtain rfl | rfl | rfl := hi
  · exact runCommand_checked_decTests hs _
  · exact runCommand_checked_decTests hs _
  · refine (runCommand_checked_decTests hs _).trans ?_
    rw [decodeRand_eq_trial himg, state_decPositions himg]
    rfl

/-- Settles O47: the trial's error is that of `Unframe`, and `Fail` stores 0 to `PAYLEN`. -/
theorem decodeFailsInOrder : Obligations.DecodeFailsInOrder := by
  intro i s hi hs e he
  rw [decodedPrefix_eq] at he
  have htrial : trial i s = .error e := unframe_eq_error he
  rw [exec_schemeDec hi hs, htrial]
  by_cases hrand : i = .decRandom
  · subst hrand
    exact ⟨_, rfl, rfl, fun h => absurd rfl h, fun _ => holdsPositions_decPositions hs.1⟩
  · rw [positionsStored, if_neg hrand]
    exact ⟨_, rfl, rfl, fun _ => ⟨rfl, rfl⟩, fun h => absurd h hrand⟩

/-! ### The plausibility filter and the fallback chain (R158, R159) -/

theorem plausible_iff (B : List Byte) :
    plausible B = true ↔ 1 ≤ B.length ∧ B.length ≤ 10000 ∧ 5 * B.countP printable ≥ 4 * B.length := by
  simp only [plausible, Config.payMax, Bool.and_eq_true, Bool.not_eq_true', Bool.or_eq_false_iff,
    decide_eq_false_iff_not, decide_eq_true_eq, Nat.not_lt, gt_iff_lt, and_assoc]

theorem plausibleResult_ok {r : Except CmdError (List Byte)} {B : List Byte} (hr : r = .ok B)
    (hB : plausible B = true) : plausibleResult r = some B := by
  subst hr
  exact if_pos hB

theorem plausibleResult_eq_none {r : Except CmdError (List Byte)} (h : ∀ B, r = .ok B → plausible B = false) :
    plausibleResult r = none := by
  cases r with
  | ok B => exact if_neg (Bool.eq_false_iff.1 (h B rfl))
  | error e => rfl

section Chain

variable {s : State}

theorem decodeAuto_of_seq1 {B : List Byte} (h1 : decodeSeq1 s = .ok B) (hB : plausible B = true) :
    decodeAuto s = finishDecode .lsb s (decodeSeq1 s) := by
  unfold decodeAuto
  rw [plausibleResult_ok h1 hB, h1]
  rfl

variable (h1 : ∀ B, decodeSeq1 s = .ok B → plausible B = false)
include h1

theorem decodeAuto_of_seq2 {B : List Byte} (h2 : decodeSeq2 s = .ok B) (hB : plausible B = true) :
    decodeAuto s = finishDecode .lsb2 s (decodeSeq2 s) := by
  unfold decodeAuto
  rw [plausibleResult_eq_none h1, plausibleResult_ok h2 hB, h2]
  rfl

variable (h2 : ∀ B, decodeSeq2 s = .ok B → plausible B = false)
include h2

theorem decodeAuto_of_rand {B : List Byte} (h3 : decodeRand s = .ok B) :
    decodeAuto s = finishDecode .random (s.storePositions s.decPositions) (decodeRand s) := by
  unfold decodeAuto
  rw [plausibleResult_eq_none h1, plausibleResult_eq_none h2, h3]
  rfl

theorem decodeAuto_of_exhausted {e : CmdError} (h3 : decodeRand s = .error e) :
    decodeAuto s = .raised .autoExhausted ((s.storePositions s.decPositions).setPayLen 0) := by
  unfold decodeAuto
  rw [plausibleResult_eq_none h1, plausibleResult_eq_none h2, h3]

end Chain

theorem exec_decAuto {s : State} (hs : s.DecReady) : exec .decAuto s = .next (decodeAuto s.accept).state :=
  runCommand_checked_decTests hs decodeAuto

/-- An accepting trial of the chain makes `DEC.auto` the command whose rule it is. -/
theorem exec_decAuto_eq {s : State} (hs : s.DecReady) {rule : State → Ending}
    (hrule : decodeAuto s.accept = rule s.accept) :
    exec .decAuto s = runCommand (fun s => checked (decTests s) s rule) s := by
  rw [exec_decAuto hs, runCommand_checked_decTests hs, hrule]

/-- Settles O49: acceptance changes no input of the trials, so the chain's four ways are those of `decodeAuto`. -/
theorem autoFollowsTheFallbackChain : Obligations.AutoFollowsTheFallbackChain := by
  intro s hs
  have himg : 0 < s.accept.pixels := hs.1.1
  refine ⟨fun B => ?_, plausible_iff, fun B h1 hB => ?_, fun h1 B h2 hB => ?_,
    fun h1 h2 => ⟨fun B h3 => ?_, fun e h3 => ?_⟩⟩
  · rw [decodeSeq1_eq_trial, decodeSeq2_eq_trial, decodeRand_eq_trial (s := s) himg]
    exact ⟨trial_eq_ok_iff, trial_eq_ok_iff, trial_eq_ok_iff⟩
  · exact exec_decAuto_eq hs (decodeAuto_of_seq1 (s := s.accept) h1 hB)
  · exact exec_decAuto_eq hs (decodeAuto_of_seq2 (s := s.accept) h1 h2 hB)
  · exact exec_decAuto_eq hs (decodeAuto_of_rand (s := s.accept) h1 h2 h3)
  · rw [exec_decAuto hs, decodeAuto_of_exhausted (s := s.accept) h1 h2 h3, state_decPositions himg]
    exact ⟨_, rfl, holdsPositions_decPositions hs.1, rfl⟩

end Sys2Proof.Machine

/-! ## The position generator (41_posgen.md)

The recurrence is affine, so its iterates are powers of the multiplier in a group of units, and the multiplier's order
there is the period. Over one full period the loop of `GenPos` is the list of candidates without repetitions. -/

namespace Sys2Proof.Machine

open Sys2Proof.Claims

/-! ### The generator's period (R121, R122) -/

theorem lcgNext_eq (s : Nat) : lcgNext s = (s * 9301 + 49297) % 233280 := rfl

/-- `9301 - 1` times the modulus: here `s ↦ 9300*s + 49297` turns the recurrence into multiplication by 9301. -/
def unitModulus : Nat := 9300 * 233280

theorem lcgNext_linear (s : Nat) : 9300 * lcgNext s + 49297 ≡ 9301 * (9300 * s + 49297) [MOD unitModulus] := by
  have hstep : 9300 * lcgNext s ≡ 9300 * (s * 9301 + 49297) [MOD unitModulus] := (Nat.mod_modEq _ _).mul_left' 9300
  calc 9300 * lcgNext s + 49297
    _ ≡ 9300 * (s * 9301 + 49297) + 49297 [MOD unitModulus] := hstep.add_right 49297
    _ = 9301 * (9300 * s + 49297) := by ring

/-- The multiplier as a unit. -/
def multiplier : (ZMod unitModulus)ˣ := ZMod.unitOfCoprime 9301 (by norm_num [unitModulus])

/-- The seed under `s ↦ 9300*s + 49297`, as a unit. -/
def seedUnit : (ZMod unitModulus)ˣ := ZMod.unitOfCoprime (9300 * 12345 + 49297) (by norm_num [unitModulus])

theorem cast_lcgNext_iterate (i : Nat) :
    ((9300 * lcgNext^[i] 12345 + 49297 : Nat) : ZMod unitModulus) =
      ((multiplier ^ i * seedUnit : (ZMod unitModulus)ˣ) : ZMod unitModulus) := by
  induction i with
  | zero => rw [pow_zero, one_mul]; rfl
  | succ i ih =>
    rw [Function.iterate_succ_apply', (ZMod.natCast_eq_natCast_iff _ _ _).2 (lcgNext_linear _), Nat.cast_mul, ih,
      pow_succ', mul_assoc, Units.val_mul]
    rfl

/-- The multiplier's order is the modulus of the recurrence: that power of it is 1, and none of the powers with the
exponent divided by 2, 3 or 5 is. -/
theorem orderOf_multiplier : orderOf multiplier = 233280 := by
  rw [← orderOf_units, multiplier, ZMod.coe_unitOfCoprime, Nat.cast_ofNat]
  change orderOf (9301 : ZMod 2169504000) = 233280
  refine orderOf_eq_of_pow_and_pow_div_prime (by decide) (by reduce_mod_char) fun p hp hdvd => ?_
  have hlist : p ∈ Nat.primeFactorsList 233280 := (Nat.mem_primeFactorsList (by decide)).2 ⟨hp, hdvd⟩
  have hfactors : p = 2 ∨ p = 3 ∨ p = 5 := by simpa using hlist
  obtain rfl | rfl | rfl := hfactors
  all_goals
    simp only [Nat.reduceDiv]
    reduce_mod_char
    decide

theorem lcgNext_iterate_lt (i : Nat) : lcgNext^[i] 12345 < 233280 := by
  cases i with
  | zero => decide
  | succ i => rw [Function.iterate_succ_apply']; exact lcgNext_lt _

/-- Two states of the run are equal exactly when their numbers differ by a multiple of the modulus. -/
theorem lcgNext_iterate_eq_iff {i j : Nat} :
    lcgNext^[i] 12345 = lcgNext^[j] 12345 ↔ i ≡ j [MOD 233280] := by
  have hpow : multiplier ^ i * seedUnit = multiplier ^ j * seedUnit ↔ i ≡ j [MOD 233280] := by
    rw [mul_left_inj, pow_eq_pow_iff_modEq, orderOf_multiplier]
  rw [← hpow, Units.ext_iff, ← cast_lcgNext_iterate, ← cast_lcgNext_iterate, ZMod.natCast_eq_natCast_iff]
  refine ⟨fun h => by rw [h], fun h => ?_⟩
  have hmod : lcgNext^[i] 12345 ≡ lcgNext^[j] 12345 [MOD 233280] :=
    Nat.ModEq.mul_left_cancel' (by decide) (Nat.ModEq.add_right_cancel' 49297 h)
  exact hmod.eq_of_lt_of_lt (lcgNext_iterate_lt i) (lcgNext_iterate_lt j)

/-- The states 1 to 233280 are pairwise different. -/
theorem lcgNext_iterate_injOn : Set.InjOn (fun i => lcgNext^[i] 12345) (Finset.Icc 1 233280) := by
  intro i hi j hj h
  obtain ⟨hi1, hi2⟩ := Finset.mem_Icc.1 hi
  obtain ⟨hj1, hj2⟩ := Finset.mem_Icc.1 hj
  have hmod : i % 233280 = j % 233280 := lcgNext_iterate_eq_iff.1 h
  omega

/-- Every residue is one of the states 1 to 233280. -/
theorem exists_lcgNext_iterate {r : Nat} (hr : r < 233280) : ∃ i, 1 ≤ i ∧ i ≤ 233280 ∧ lcgNext^[i] 12345 = r := by
  obtain ⟨i, hi, rfl⟩ := Finset.surjOn_of_injOn_of_card_le (t := Finset.range 233280) (fun i => lcgNext^[i] 12345)
    (fun i _ => Finset.mem_coe.2 (Finset.mem_range.2 (lcgNext_iterate_lt i))) lcgNext_iterate_injOn
    (by rw [Finset.card_range, Nat.card_Icc]) (Finset.mem_coe.2 (Finset.mem_range.2 hr))
  obtain ⟨hi1, hi2⟩ := Finset.mem_Icc.1 hi
  exact ⟨i, hi1, hi2, rfl⟩

/-- Settles O37: the states repeat exactly with the order of the multiplier. -/
theorem generatorHasFullPeriod : Obligations.GeneratorHasFullPeriod := by
  refine ⟨lcgNext_eq, lcgNext_iterate_eq_iff (j := 0).2 rfl, fun i j hi hi' hj hj' h => ?_,
    fun _ => exists_lcgNext_iterate⟩
  exact lcgNext_iterate_injOn (Finset.mem_Icc.2 ⟨hi, hi'⟩) (Finset.mem_Icc.2 ⟨hj, hj'⟩) h

/-! ### The loop is the list of first candidates (R121, R123 to R126) -/

/-- The candidates of the next `steps` states, in order. -/
def candidates (N steps s : Nat) : List Nat := (List.range steps).map fun i => candidate N (lcgNext^[i + 1] s)

theorem candidates_zero (N s : Nat) : candidates N 0 s = [] := rfl

/-- The values of a function along an orbit, split after the first. -/
theorem map_iterate_range_succ (g f : Nat → Nat) (steps s : Nat) :
    ((List.range (steps + 1)).map fun i => g (f^[i + 1] s)) =
      g (f s) :: (List.range steps).map fun i => g (f^[i + 1] (f s)) := by
  rw [List.range_succ_eq_map, List.map_cons, List.map_map]
  rfl

theorem candidates_succ (N steps s : Nat) :
    candidates N (steps + 1) s = candidate N (lcgNext s) :: candidates N steps (lcgNext s) :=
  map_iterate_range_succ (candidate N) lcgNext steps s

theorem candidate_not_alpha (N s : Nat) : (candidate N s + 1) % 4 ≠ 0 := by
  rw [candidate_eq_off]
  exact off_not_alpha _

/-- From `P` on, the loop appends the candidates that are not in `P`, each once, up to `count` elements in all. -/
theorem genPosLoop_eq (N count steps : Nat) : ∀ (s : Nat) (P : List Nat),
    genPosLoop N count steps s P = P ++ (((candidates N steps s).removeAll P).eraseDups).take (count - P.length) := by
  induction steps with
  | zero =>
    intro s P
    rw [candidates_zero, List.nil_removeAll, List.eraseDups_nil, List.take_nil, List.append_nil, genPosLoop]
  | succ steps ih =>
    intro s P
    have halpha := candidate_not_alpha N (lcgNext s)
    rw [candidates_succ, List.cons_removeAll]
    unfold genPosLoop
    generalize candidate N (lcgNext s) = c at halpha
    by_cases hmore : P.length < count
    · by_cases hin : c ∈ P
      · simp [hmore, hin, ih]
      · have hcount : count - P.length = count - (P.length + 1) + 1 := by omega
        have hremove (l : List Nat) : l.removeAll (P ++ [c]) = (l.removeAll P).filter fun b => !b == c := by
          simp [List.removeAll, List.filter_filter, Bool.and_comm, beq_eq_decide]
        simp [hmore, hin, halpha, ih, hcount, hremove, List.eraseDups_cons]
    · have hfull : count - P.length = 0 := by omega
      simp [hmore, hfull]

/-- Every position there is for `N` RGB samples, in the order in which one full period finds them. -/
def allPositions (N : Nat) : List Nat := (candidates N 233280 12345).eraseDups

theorem genPos_eq_take (W H count : Nat) : genPos W H count = (allPositions (3 * (W * H))).take count := by
  rw [genPos, genPosLoop_eq, Nat.mul_assoc, List.removeAll_nil, List.nil_append, List.length_nil, Nat.sub_zero,
    allPositions, Config.lcgM, Config.lcgSeed]

/-- Settles O36: both requests take from the one list of all positions, which `W*H` fixes. -/
theorem positionsArePrefixStable : Obligations.PositionsArePrefixStable := by
  refine ⟨fun W H c1 c2 hle => ?_, fun W H W' H' count harea => ?_⟩
  · rw [genPos_eq_take, genPos_eq_take, List.take_take, Nat.min_eq_left hle]
  · rw [genPos_eq_take, genPos_eq_take, harea]

/-- The rules' own arithmetic makes the same candidates. -/
theorem map_ruleOffset_eq_candidates (N steps s : Nat) :
    ((List.range steps).map fun i => ruleOffset N (ruleNext^[i + 1] s)) = candidates N steps s := rfl

theorem filter_not_alpha_candidates (N steps s : Nat) :
    (candidates N steps s).filter (fun o => (o + 1) % 4 ≠ 0) = candidates N steps s := by
  refine List.filter_eq_self.2 fun o ho => ?_
  obtain ⟨i, -, rfl⟩ := List.mem_map.1 ho
  exact decide_eq_true (candidate_not_alpha _ _)

/-- Settles O38: no candidate is an alpha offset, so the filter leaves them all. -/
theorem positionsAreTheFirstDistinctCandidates : Obligations.PositionsAreTheFirstDistinctCandidates := by
  intro W H count
  rw [map_ruleOffset_eq_candidates, filter_not_alpha_candidates, genPos_eq_take, allPositions]

/-! ### The positions are distinct RGB offsets (R129) -/

theorem nodup_eraseDups : ∀ l : List Nat, l.eraseDups.Nodup
  | [] => List.nodup_nil
  | a :: l => by
    rw [List.eraseDups_cons, List.nodup_cons]
    exact ⟨by simp [List.mem_eraseDups], nodup_eraseDups (l.filter fun b => !b == a)⟩
termination_by l => l.length
decreasing_by exact Nat.lt_succ_of_le (List.length_filter_le _ _)

theorem nodup_allPositions (N : Nat) : (allPositions N).Nodup := nodup_eraseDups _

/-- Over a full period every state below the modulus makes its candidate, and no other state does. -/
theorem mem_allPositions {N o : Nat} : o ∈ allPositions N ↔ ∃ s < 233280, candidate N s = o := by
  simp only [allPositions, List.mem_eraseDups, candidates, List.mem_map, List.mem_range]
  constructor
  · rintro ⟨i, -, rfl⟩
    exact ⟨_, lcgNext_iterate_lt _, rfl⟩
  · rintro ⟨s, hs, rfl⟩
    obtain ⟨i, hpos, hle, rfl⟩ := exists_lcgNext_iterate hs
    exact ⟨i - 1, by omega, by rw [Nat.sub_add_cancel hpos]⟩

/-- Settles O35: the positions are candidates of different offsets, and candidates are RGB offsets of the image. -/
theorem positionsAreDistinctColourSamples : Obligations.PositionsAreDistinctColourSamples := by
  intro W H count
  rw [genPos_eq_take]
  refine ⟨(nodup_allPositions _).sublist (List.take_sublist _ _), fun o ho => ?_⟩
  obtain ⟨s, hs, rfl⟩ := mem_allPositions.1 (List.mem_of_mem_take ho)
  refine ⟨candidate_not_alpha _ _, fun himg => ?_⟩
  rw [candidate_eq_off, off_lt_iff]
  exact scaledIndex_lt (by omega) hs

/-! ### How many positions there are (R130) -/

/-- Up to 233280 samples every index is the scaled index of a state: of the least one with `k*233280 ≤ s*N`. -/
theorem exists_scaledIndex_eq {N k : Nat} (hN : N ≤ 233280) (hk : k < N) : ∃ s < 233280, scaledIndex N s = k := by
  have hdiv := Nat.div_add_mod (k * 233280 + (N - 1)) N
  have hmod := Nat.mod_lt (k * 233280 + (N - 1)) (by omega : N > 0)
  rw [Nat.mul_comm] at hdiv
  generalize (k * 233280 + (N - 1)) / N = s at hdiv
  have hlow : k * 233280 ≤ s * N := by omega
  have hhigh : s * N < (k + 1) * 233280 := by omega
  refine ⟨s, Nat.lt_of_mul_lt_mul_right (a := N) ?_, Nat.div_eq_of_lt_le hlow hhigh⟩
  exact hhigh.trans_le (Nat.mul_comm N 233280 ▸ Nat.mul_le_mul_right 233280 hk)

/-- Above 233280 samples different states have different scaled indices. -/
theorem scaledIndex_injective {N : Nat} (hN : 233280 < N) : Function.Injective (scaledIndex N) := by
  refine (strictMono_nat_of_lt_succ fun s => ?_).injective
  unfold scaledIndex Config.lcgM
  rw [Nat.succ_mul]
  omega

theorem card_image_scaledIndex {N : Nat} (hN : 0 < N) :
    ((Finset.range 233280).image (scaledIndex N)).card = min N 233280 := by
  obtain hle | hlt := le_or_gt N 233280
  · have honto : (Finset.range 233280).image (scaledIndex N) = Finset.range N := by
      ext k
      simp only [Finset.mem_image, Finset.mem_range]
      exact ⟨fun ⟨s, hs, h⟩ => h ▸ scaledIndex_lt hN hs, exists_scaledIndex_eq hle⟩
    rw [honto, Finset.card_range, Nat.min_eq_left hle]
  · rw [Finset.card_image_of_injective _ (scaledIndex_injective hlt), Finset.card_range, Nat.min_eq_right hlt.le]

theorem length_allPositions {N : Nat} (hN : 0 < N) : (allPositions N).length = min N 233280 := by
  have himage : (allPositions N).toFinset = ((Finset.range 233280).image (scaledIndex N)).image off := by
    ext o
    simp [mem_allPositions, candidate_eq_off]
  rw [← List.toFinset_card_of_nodup (nodup_allPositions N), himage,
    Finset.card_image_of_injective _ fun _ _ => off_injective, card_image_scaledIndex hN]

theorem length_genPos {W H : Nat} (h : 0 < W * H) (count : Nat) :
    (genPos W H count).length = min count (min (3 * (W * H)) 233280) := by
  rw [genPos_eq_take, List.length_take, length_allPositions (by omega)]

/-! ### `GENPOS` (R131) -/

theorem exec_genpos (s : State) : exec .genpos s = execGenpos s := rfl

/-- A failing test of `GENPOS` is reported, and nothing else changes. -/
theorem exec_genpos_of_some {s : State} {e : CmdError} (h : firstFailing (genposTests s) = some e) :
    exec .genpos s = .next (s.reporting (some e)) := by
  have hfail : firstFailing (genposTests s.accept) = some e := h
  rw [exec_genpos, execGenpos, runCommand_eq, checked_of_some hfail, state_raised, raise_accept]

theorem firstFailing_genposTests {s : State} (h : s.HasImage) :
    firstFailing (genposTests s) = if 80032 < s.posCnt.toNat then some .countTooLarge else none := by
  have hpos : s.pixels ≠ 0 := h.1.ne'
  have hsize : ¬4 * s.pixels > s.pixBytes := h.2.not_gt
  simp [genposTests, imageTests, hpos, hsize, Config.posMax]

/-- With an image and a request that fits `POS`, `GENPOS` stores the sequence and reports whether it is short. -/
theorem exec_genpos_of_ready {s : State} (h : s.HasImage) (hcount : s.posCnt.toNat ≤ 80032) :
    exec .genpos s = .next ((s.storePositions (genPos s.width.toNat s.height.toNat s.posCnt.toNat)).reporting
      (if (genPos s.width.toNat s.height.toNat s.posCnt.toNat).length < s.posCnt.toNat
        then some .positionsExhausted else none)) := by
  have hpass : firstFailing (genposTests s.accept) = none :=
    (firstFailing_genposTests (s := s.accept) h).trans (if_neg hcount.not_gt)
  have hseq : s.accept.genPos s.accept.posCnt.toNat = genPos s.width.toNat s.height.toNat s.posCnt.toNat :=
    state_genPos (s := s.accept) h.1 _
  rw [exec_genpos, execGenpos, runCommand_eq, checked_of_none hpass, hseq]
  generalize genPos s.width.toNat s.height.toNat s.posCnt.toNat = P
  have hrequest : s.accept.posCnt = s.posCnt := rfl
  rw [hrequest]
  dsimp only
  by_cases hshort : P.length < s.posCnt.toNat
  · rw [if_pos hshort, if_pos hshort]
    rfl
  · rw [if_neg hshort, if_neg hshort]
    rfl

theorem holdsPositions_genPos {s : State} (h : s.HasImage) {count : Nat} (hcount : count ≤ 80032) :
    holdsPositions s (s.storePositions (genPos s.width.toNat s.height.toNat count))
      (genPos s.width.toNat s.height.toNat count) := by
  obtain ⟨himg, hfits⟩ := h
  refine holdsPositions_storePositions s ?_ fun o ho => ?_
  · rw [length_genPos himg]
    omega
  · have hbelow := ((positionsAreDistinctColourSamples _ _ count).2 o ho).2 himg
    have := s.pixSize.isLt
    unfold State.pixBytes at hfits
    omega

/-- Settles O33: the first failing test decides, and once none fails the sequence is stored. -/
theorem genposStoresTheSequence : Obligations.GenposStoresTheSequence := by
  intro s
  refine ⟨fun hnone => ?_, fun himg hlarge => ?_, fun himg hmany => ?_, fun himg hcount => ?_⟩
  · have hzero : s.pixels = 0 := hnone
    exact exec_genpos_of_some (by simp [genposTests, imageTests, hzero])
  · have hpos : s.pixels ≠ 0 := himg.ne'
    have hsize : 4 * s.pixels > s.pixBytes := hlarge
    exact exec_genpos_of_some (by simp [genposTests, imageTests, hpos, hsize])
  · exact exec_genpos_of_some ((firstFailing_genposTests himg).trans (if_pos hmany))
  · exact ⟨_, exec_genpos_of_ready himg hcount, holdsPositions_genPos himg hcount, rfl⟩

/-- Settles O34: the length of the sequence is known, and `GENPOS` reports exactly a length below the request. -/
theorem everyReachablePositionIsFound : Obligations.EveryReachablePositionIsFound := by
  refine ⟨fun W H count himg => length_genPos himg count, fun _ _ => rfl,
    fun N _ hN k hk => exists_scaledIndex_eq hN hk,
    fun N hN s _ s' _ heq => scaledIndex_injective hN heq, fun s himg hcount => ?_⟩
  refine ⟨_, exec_genpos_of_ready himg hcount, rfl, rfl, ?_⟩
  change (if _ then some CmdError.positionsExhausted else none) = none ↔ _
  rw [length_genPos himg.1, State.reach]
  simp

end Sys2Proof.Machine

/-! ## The order of the samples and the two sample formats (42_codecs.md R140 to R143)

What one store of framed bits makes of a sample, what a decoder then reads from it, and what a loop of such stores
leaves in `PIX`. -/

namespace Sys2Proof.Machine

open Sys2Proof.Claims

/-! ### The two sequential walks visit the same samples -/

theorem off_lt_off {i j : Nat} (h : i < j) : off i < off j := by unfold off; omega

theorem walkNext_off (k : Nat) : walkNext (off k) = off (k + 1) := by
  unfold walkNext off
  split <;> omega

theorem walk_eq_off : ∀ k, walk k = off k
  | 0 => rfl
  | k + 1 => (congrArg walkNext (walk_eq_off k)).trans (walkNext_off k)

/-- Settles O39: one step of the walk goes from an RGB sample to the next one, so the walk is `off`. -/
theorem sequentialSchemesVisitColourSamplesInOrder : Obligations.SequentialSchemesVisitColourSamplesInOrder := by
  refine ⟨fun _ => rfl, fun j => ?_, fun i j => off_lt_off, fun a ha => ?_, off_lt_iff, walk_eq_off, fun k px => ?_⟩
  · have := off_not_alpha j
    omega
  · obtain ⟨j, hj⟩ := exists_off ha
    exact ⟨j, hj.symm⟩
  · rw [walk_eq_off, ← Nat.not_lt, off_lt_iff, Nat.not_lt]

/-! ### One sample -/

/-- Format `S1`: the upper seven bits stay and bit 0 is the framed bit. -/
theorem setBit0_toNat : ∀ (x : Byte) (b : Bool), (setBit0 x b).toNat = x.toNat / 2 * 2 + b.toNat := by decide

/-- Format `S2`: the upper six bits stay and the two low bits are the framed bits, the earlier one in bit 1. -/
theorem setSymbol_toNat : ∀ (x : Byte) (b1 b0 : Bool),
    (setSymbol x b1 b0).toNat = x.toNat / 4 * 4 + (2 * b1.toNat + b0.toNat) := by decide

theorem bit0_setBit0 (x : Byte) (b : Bool) : bit0 (setBit0 x b) = b := by
  have hbit : (x.toNat / 2 * 2 + b.toNat) / 2 ^ 0 % 2 = b.toNat := by
    have := b.toNat_le
    omega
  rw [bit0, getLsbD_eq_decide, setBit0_toNat, hbit]
  simp

/-- The two bits of a symbol are read back as the framed bits they are (42_codecs.md R148). -/
theorem symbolBit_setSymbol (x : Byte) (b1 b0 : Bool) (j : Nat) :
    symbolBit (setSymbol x b1 b0) j = if j % 2 = 0 then b1 else b0 := by
  have h1 := b1.toNat_le
  have h0 := b0.toNat_le
  rw [symbolBit, getLsbD_eq_decide, setSymbol_toNat]
  obtain hj | hj := Nat.mod_two_eq_zero_or_one j
  · have hbit : (x.toNat / 4 * 4 + (2 * b1.toNat + b0.toNat)) / 2 ^ 1 % 2 = b1.toNat := by omega
    rw [hj, hbit]
    simp
  · have hbit : (x.toNat / 4 * 4 + (2 * b1.toNat + b0.toNat)) / 2 ^ 0 % 2 = b0.toNat := by omega
    rw [hj, hbit]
    simp

/-! ### A loop of stores -/

theorem memRead_embedBits {pos : Nat → Nat} {L : Nat} (hinj : ∀ i < L, ∀ j < L, pos i = pos j → i = j)
    (F : Nat → Bool) (m : Memory 8) {j : Nat} (hj : j < L) :
    memRead (embedBits pos F L m) (pos j) = setBit0 (memRead m (pos j)) (F j) :=
  (memRead_loop pos (fun j x => setBit0 x (F j)) m L hinj).1 j hj

theorem memRead_embedSymbols (F : Nat → Bool) {K : Nat} (m : Memory 8) {k : Nat} (hk : k < K) :
    memRead (embedSymbols F K m) (off k) = setSymbol (memRead m (off k)) (F (2 * k)) (F (2 * k + 1)) :=
  (memRead_loop off (fun k x => setSymbol x (F (2 * k)) (F (2 * k + 1))) m K fun _ _ _ _ => off_injective).1 k hk

end Sys2Proof.Machine

/-! ## The refusals of `EncChecks` and `DecChecks` (42_codecs.md R150, R154)

Both lists are made of the tests on the image and the tests on the key; the first test that fails decides. -/

namespace Sys2Proof.Machine

open Sys2Proof.Claims

/-! ### The tests the commands share -/

theorem imageTests_noImage {s : State} (h : area s = 0) : firstFailing (imageTests s) = some .noImage := by
  have hzero : s.pixels = 0 := h
  simp [imageTests, hzero]

theorem imageTests_tooLarge {s : State} (hpos : 0 < area s) (hlarge : s.pixBytes < 4 * area s) :
    firstFailing (imageTests s) = some .imageTooLarge := by
  have hpos : s.pixels ≠ 0 := hpos.ne'
  have hlarge : s.pixBytes < 4 * s.pixels := hlarge
  simp [imageTests, hpos, hlarge]

theorem imageTests_pass {s : State} (h : s.HasImage) : firstFailing (imageTests s) = none := by
  obtain ⟨hpos, hfits⟩ := h
  have hpos : s.pixels ≠ 0 := hpos.ne'
  have hfits : 4 * s.pixels ≤ s.pixBytes := hfits
  simp [imageTests, hpos, hfits]

theorem cipherTests_missing {s : State} (hc : s.ctrl.cipherEn = true) (hk : s.keyLen.toNat = 0) :
    firstFailing (cipherTests s) = some .missingPassword := by
  simp [cipherTests, hc, hk]

theorem cipherTests_tooLong {s : State} (hc : s.ctrl.cipherEn = true) (hk : 256 < s.keyLen.toNat) :
    firstFailing (cipherTests s) = some .keyTooLong := by
  have hsome : s.keyLen.toNat ≠ 0 := by omega
  simp only [cipherTests, firstFailing_cons, hc, hsome, Config.keyMax, hk]
  rfl

theorem cipherTests_pass {s : State} (h : s.KeyUsable) : firstFailing (cipherTests s) = none := by
  cases hc : s.ctrl.cipherEn with
  | false => simp [cipherTests, hc]
  | true =>
    obtain ⟨hsome, hmax⟩ := h hc
    have hsome : ¬s.keyLen.toNat = 0 := hsome.ne'
    have hmax : ¬s.keyLen.toNat > Config.keyMax := hmax.not_gt
    simp only [cipherTests, firstFailing_cons, hc, hsome, hmax]
    rfl

/-! ### Refusals change nothing but `STATUS` -/

/-- A command whose checks fail before its rule reports the error and changes nothing else. -/
theorem runCommand_checked_of_some {tests : State → Tests} {s : State} {e : CmdError}
    (h : firstFailing (tests s.accept) = some e) (rule : State → Ending) :
    runCommand (fun s => checked (tests s) s rule) s = .next (s.reporting (some e)) := by
  rw [runCommand_eq, checked_of_some h, state_raised, raise_accept]

theorem exec_enc_refused {i : Instr} {s : State} {e : CmdError} (hi : i ∈ encCommands)
    (h : firstFailing (encTests s) = some e) : exec i s = .next (s.reporting (some e)) := by
  simp only [encCommands, List.mem_cons, List.not_mem_nil, or_false] at hi
  obtain rfl | rfl | rfl := hi <;> exact runCommand_checked_of_some (tests := encTests) h _

theorem exec_dec_refused {i : Instr} {s : State} {e : CmdError} (hi : i ∈ decCommands)
    (h : firstFailing (decTests s) = some e) : exec i s = .next (s.reporting (some e)) := by
  simp only [decCommands, List.mem_cons, List.not_mem_nil, or_false] at hi
  obtain rfl | rfl | rfl | rfl := hi <;> exact runCommand_checked_of_some (tests := decTests) h _

/-- Settles O46: the tests on the image stand before those on the key. -/
theorem decodeRefusesInOrder : Obligations.DecodeRefusesInOrder := by
  intro i s hi
  refine ⟨fun hnone => ?_, fun hpos hlarge => ?_, fun himg hc hk => ?_, fun himg hc hk => ?_⟩ <;>
    refine exec_dec_refused hi ((firstFailing_append _ _).trans ?_)
  · rw [imageTests_noImage hnone, Option.some_or]
  · rw [imageTests_tooLarge hpos hlarge, Option.some_or]
  · rw [imageTests_pass himg, Option.none_or, cipherTests_missing hc hk]
  · rw [imageTests_pass himg, Option.none_or, cipherTests_tooLong hc hk]

theorem encTests_eq (s : State) : firstFailing (encTests s) =
    (((firstFailing (imageTests s)).or (if s.payLen.toNat = 0 then some .emptyMessage else none)).or
      (firstFailing (cipherTests s))).or
      (if (3 * area s / 8 : Nat) - 32 < (s.payLen.toNat : Int) then some .overCapacity
        else if 10000 < s.payLen.toNat then some .overPayloadMax else none) := by
  have hcap : s.cap = (3 * area s / 8 : Nat) - 32 := by
    rw [State.cap, cap, Nat.mul_assoc, Config.capReserve]
    rfl
  simp only [encTests, firstFailing_append, firstFailing_cons, firstFailing_nil, decide_eq_true_eq, hcap,
    Config.payMax, gt_iff_lt]

/-- Settles O42: the first of the four groups of tests that fails decides. -/
theorem encodeRefusesInOrder : Obligations.EncodeRefusesInOrder := by
  intro i s hi
  refine ⟨fun hnone => ?_, fun hpos hlarge => ?_, fun himg hempty => ?_, fun himg hn hc hk => ?_,
    fun himg hn hc hk => ?_, fun himg hn hkey hover => ?_, fun himg hn hkey hfits hmax => ?_⟩ <;>
    refine exec_enc_refused hi ((encTests_eq s).trans ?_)
  · simp [imageTests_noImage hnone]
  · simp [imageTests_tooLarge hpos hlarge]
  · simp [imageTests_pass himg, hempty]
  · simp [imageTests_pass himg, hn.ne', cipherTests_missing hc hk]
  · simp [imageTests_pass himg, hn.ne', cipherTests_tooLong hc hk]
  · rw [imageTests_pass himg, if_neg hn.ne', cipherTests_pass hkey, if_pos hover]
    rfl
  · rw [imageTests_pass himg, if_neg hn.ne', cipherTests_pass hkey, if_neg hfits.not_gt, if_pos hmax]
    rfl

end Sys2Proof.Machine

/-! ## The encode commands once their checks pass (42_codecs.md R144 to R146, R151 to R153)

`EncChecks` leaves a frame that fits the RGB samples, so no encoder runs short of samples or of positions (R161). -/

namespace Sys2Proof.Machine

open Sys2Proof.Claims

/-! ### The framed bits -/

/-- The model's frame has the bits of the rule's arithmetic (40_framer.md R100). -/
theorem frame_toNat (s : State) {j : Nat} (hj : j < 32 + 8 * s.payLen.toNat) : (s.frame j).toNat = framedBit s j :=
  frameBitsFollowTheRule.1 s.payLen.toNat s.framedPayload j hj

theorem frameLen_eq (n : Nat) : frameLen n = 32 + 8 * n := rfl

theorem half_frameLen (n : Nat) : frameLen n / 2 = 16 + 4 * n := by rw [frameLen_eq]; omega

/-! ### The encoders when the samples suffice -/

theorem exhaustionTests_pass {avail head len : Nat} (hhead : head ≤ len) (hlen : len ≤ avail) :
    firstFailing [(avail < head, .prefixExhausted), (len > avail, .payloadExhausted)] = none := by
  simp [hlen.not_gt, (hhead.trans hlen).not_gt]

theorem encodeSeq1_of_fits {s : State} (h : frameLen s.payLen.toNat ≤ s.rgbCount) :
    encodeSeq1 s = .completed (s.setPix (embedBits off s.frame (frameLen s.payLen.toNat) s.pix)) :=
  checked_of_none (exhaustionTests_pass (Nat.le_add_right _ _) h) s _

theorem encodeSeq2_of_fits {s : State} (h : frameLen s.payLen.toNat / 2 ≤ s.rgbCount) :
    encodeSeq2 s = .completed (s.setPix (embedSymbols s.frame (frameLen s.payLen.toNat / 2) s.pix)) :=
  checked_of_none (exhaustionTests_pass (half_frameLen _ ▸ Nat.le_add_right 16 _) h) s _

theorem encodeRand_of_fits {s : State} {P : List Nat} (hP : s.genPos (frameLen s.payLen.toNat) = P)
    (h : frameLen s.payLen.toNat ≤ P.length) :
    encodeRand s = .completed ((s.storePositions P).setPix
      (embedBits (fun j => P.getD j 0) s.frame (frameLen s.payLen.toNat) s.pix)) := by
  subst hP
  unfold encodeRand
  exact checked_of_none (exhaustionTests_pass (Nat.le_add_right _ _) h) _ _

/-! ### The positions of a randomized encode -/

/-- The positions at which `ENC.random` stores the frame (42_codecs.md R146). -/
def encPositions (s : State) : List Nat := genPos s.width.toNat s.height.toNat (8 * s.payLen.toNat + 32)

theorem state_encPositions {s : State} (h : 0 < s.pixels) : s.genPos (frameLen s.payLen.toNat) = encPositions s := by
  rw [state_genPos h, frameLen_eq, Nat.add_comm]
  rfl

theorem getD_genPos_injective (W H count : Nat) : ∀ i < (genPos W H count).length, ∀ j < (genPos W H count).length,
    (genPos W H count).getD i 0 = (genPos W H count).getD j 0 → i = j := by
  intro i hi j hj heq
  rw [List.getD_eq_getElem _ _ hi, List.getD_eq_getElem _ _ hj] at heq
  exact (positionsAreDistinctColourSamples W H count).1.getElem_inj_iff.1 heq

/-! ### Operands that pass the checks -/

section Ready

variable {s : State} (h : s.EncReady)
include h

theorem firstFailing_encTests : firstFailing (encTests s) = none := by
  obtain ⟨himg, hn, hkey, hfits, hmax⟩ := h
  rw [encTests_eq, imageTests_pass himg, if_neg hn.ne', cipherTests_pass hkey, if_neg hfits.not_gt,
    if_neg hmax.not_gt]
  rfl

/-- An encode command runs its encoder on the accepted state. -/
theorem runCommand_checked_encTests (rule : State → Ending) :
    runCommand (fun s => checked (encTests s) s rule) s = .next (rule s.accept).state := by
  have hpass : firstFailing (encTests s.accept) = none := firstFailing_encTests h
  rw [runCommand_eq, checked_of_none hpass]

/-- The capacity leaves room for the frame: it reserves 32 characters where the length field needs four. -/
theorem frameLen_le_rgbCount : frameLen s.payLen.toNat ≤ s.rgbCount := by
  obtain ⟨-, -, -, hfits, -⟩ := h
  unfold State.rgbCount State.pixels
  rw [frameLen_eq]
  omega

theorem length_encPositions : (encPositions s).length = 32 + 8 * s.payLen.toNat := by
  have hroom : 32 + 8 * s.payLen.toNat ≤ 3 * (s.width.toNat * s.height.toNat) := frameLen_le_rgbCount h
  obtain ⟨⟨himg, -⟩, -, -, -, hmax⟩ := h
  rw [encPositions, length_genPos himg]
  omega

theorem getD_encPositions_injective : ∀ i < 32 + 8 * s.payLen.toNat, ∀ j < 32 + 8 * s.payLen.toNat,
    (encPositions s).getD i 0 = (encPositions s).getD j 0 → i = j :=
  length_encPositions h ▸ getD_genPos_injective _ _ _

theorem exec_encLsb : exec .encLsb s = .next
    ((s.reporting none).setPix (embedBits off s.frame (frameLen s.payLen.toNat) s.pix)) := by
  refine (runCommand_checked_encTests h encodeSeq1).trans ?_
  rw [encodeSeq1_of_fits (s := s.accept) (frameLen_le_rgbCount h)]
  rfl

theorem exec_encLsb2 : exec .encLsb2 s = .next
    ((s.reporting none).setPix (embedSymbols s.frame (frameLen s.payLen.toNat / 2) s.pix)) := by
  refine (runCommand_checked_encTests h encodeSeq2).trans ?_
  rw [encodeSeq2_of_fits (s := s.accept) ((Nat.div_le_self _ 2).trans (frameLen_le_rgbCount h))]
  rfl

theorem exec_encRandom : exec .encRandom s = .next (((s.reporting none).storePositions (encPositions s)).setPix
    (embedBits (fun j => (encPositions s).getD j 0) s.frame (frameLen s.payLen.toNat) s.pix)) := by
  have hseq : s.accept.genPos (frameLen s.accept.payLen.toNat) = encPositions s := state_encPositions h.1.1
  have hlen : frameLen s.accept.payLen.toNat ≤ (encPositions s).length := (length_encPositions h).ge
  refine (runCommand_checked_encTests h encodeRand).trans ?_
  rw [encodeRand_of_fits hseq hlen]
  rfl

end Ready

/-- Settles O43: the loop stores each framed bit in a sample of its own. -/
theorem encLsbWritesOneBitPerSample : Obligations.EncLsbWritesOneBitPerSample := by
  intro s h
  refine ⟨_, exec_encLsb h, fun j hj => ?_, fun a ha => memRead_embedBits_of_ne ha _ _, rfl⟩
  rw [State.setPix_pix, frameLen_eq, memRead_embedBits (fun _ _ _ _ => off_injective) _ _ hj, setBit0_toNat,
    frame_toNat s hj]

/-- Settles O44: the loop stores each symbol in a sample of its own. -/
theorem encLsb2WritesTwoBitsPerSample : Obligations.EncLsb2WritesTwoBitsPerSample := by
  intro s h
  refine ⟨_, exec_encLsb2 h, fun k hk => ?_, fun a ha => ?_, rfl⟩
  · rw [State.setPix_pix, half_frameLen, memRead_embedSymbols _ _ hk, setSymbol_toNat, frame_toNat s (by omega),
      frame_toNat s (by omega)]
  · rw [State.setPix_pix, half_frameLen]
    exact memRead_embedSymbols_of_ne ha _ _

/-- Settles O45: the sequence has its full length, and its distinct positions are the samples stored to. -/
theorem encRandomWritesAtThePositions : Obligations.EncRandomWritesAtThePositions := by
  intro s h
  have hlen := length_encPositions h
  have hcount : 8 * s.payLen.toNat + 32 ≤ 80032 := by
    obtain ⟨-, -, -, -, hmax⟩ := h
    omega
  refine ⟨_, encPositions s, exec_encRandom h, rfl, by omega, fun j hj => ?_, fun a ha => ?_,
    holdsPositions_genPos h.1 hcount, rfl⟩
  · rw [State.setPix_pix, frameLen_eq, memRead_embedBits (getD_encPositions_injective h) _ _ hj, setBit0_toNat,
      frame_toNat s hj]
  · refine memRead_embedBits_of_ne (fun j hj e => ha ?_) _ _
    rw [e, List.getD_eq_getElem _ _ (hlen ▸ hj)]
    exact List.getElem_mem _

end Sys2Proof.Machine

/-! ## A decode that delivers its message, and the plausibility filter (42_codecs.md R154 to R160)

`Deliver` stores the characters read, unmasked when the cipher is on; a plausible `lsb` trial makes `DEC.auto` that
delivery. -/

namespace Sys2Proof.Machine

open Sys2Proof.Claims

/-! ### Delivery -/

/-- The repeating key's byte with the cipher on, and no change with it off. -/
theorem cipher_eq_xor (s : State) (text : Nat → Byte) (k : Nat) : s.cipher text k =
    text k ^^^ (if s.ctrl.cipherEn then memRead s.key (k % s.keyLen.toNat) else 0#8) := by
  unfold State.cipher
  split
  · rfl
  · exact BitVec.xor_zero.symm

theorem memRead_deliver_pay (c : Codec) (B : List Byte) (s : State) (k : Nat) :
    memRead (s.deliver c B).pay k = if k < B.length then s.cipher (fun i => B.getD i 0) k else memRead s.pay k := by
  rw [State.deliver_pay, memRead_memStore, List.length_map, List.length_range, Nat.zero_add, Nat.sub_zero]
  by_cases hk : k < B.length <;> simp [hk]

/-- Storing the positions changes `POS` and `POSCNT` only. -/
theorem positionsStored_eq (i : Instr) (s : State) : positionsStored i s =
    { s with pos := (positionsStored i s).pos, posCnt := (positionsStored i s).posCnt } := by
  unfold positionsStored
  split <;> rfl

@[simp] theorem positionsStored_pay (i : Instr) (s : State) : (positionsStored i s).pay = s.pay := by
  rw [positionsStored_eq]

@[simp] theorem positionsStored_cipher (i : Instr) (s : State) : (positionsStored i s).cipher = s.cipher := by
  rw [positionsStored_eq]
  rfl

/-- The message a valid frame holds (40_framer.md R102). -/
def message (i : Instr) (s : State) : List Byte :=
  (List.range (decodedPrefix i s)).map fun k => BitVec.ofNat 8 (decodedChar i s k)

@[simp] theorem message_length (i : Instr) (s : State) : (message i s).length = decodedPrefix i s := by simp [message]

theorem message_getD {i : Instr} {s : State} {k : Nat} (hk : k < decodedPrefix i s) :
    (message i s).getD k 0 = BitVec.ofNat 8 (decodedChar i s k) := by simp [message, hk]

/-- A decode of an explicit scheme whose trial reads `B` delivers it. -/
theorem exec_schemeDec_of_trial {i : Instr} {s : State} {B : List Byte} (hi : i ∈ schemeDecCommands) (hs : s.DecReady)
    (hB : trial i s = .ok B) : exec i s = .next ((positionsStored i s.accept).deliver (schemeOf i) B).complete := by
  rw [exec_schemeDec hi hs, hB]
  rfl

/-- What a delivery changes of the accepted state, with the positions stored or not. -/
theorem deliver_complete_frame {s t : State} (ht : t = { s.accept with pos := t.pos, posCnt := t.posCnt }) (c : Codec)
    (B : List Byte) : (t.deliver c B).complete =
      { s with status := { s.status.reported none with schemeUsed := c }, pay := (t.deliver c B).complete.pay,
               payLen := (t.deliver c B).complete.payLen, pos := (t.deliver c B).complete.pos,
               posCnt := (t.deliver c B).complete.posCnt } := by
  rw [ht]
  rfl

/-- Settles O48: the trial of a valid frame reads its message, and the command delivers it. -/
theorem decodeDeliversAValidFrame : Obligations.DecodeDeliversAValidFrame := by
  intro i s hi hs hpos hmax hfits
  have htrial : trial i s = .ok (message i s) := trial_eq_ok_iff.2 ⟨hpos, hmax, hfits, rfl⟩
  refine ⟨_, exec_schemeDec_of_trial hi hs htrial, ?_, fun k hk => ?_, fun k hk => ?_,
    deliver_complete_frame (positionsStored_eq i s.accept) _ _, fun hrand => ?_, fun hrand => ?_⟩
  · have hword : decodedPrefix i s < 2 ^ 16 := by omega
    rw [State.complete_payLen, State.deliver_payLen, message_length, BitVec.toNat_ofNat, Nat.mod_eq_of_lt hword]
  · rw [State.complete_pay, memRead_deliver_pay, message_length, if_pos hk, positionsStored_cipher, cipher_eq_xor,
      message_getD hk]
    rfl
  · rw [State.complete_pay, memRead_deliver_pay, message_length, if_neg hk.not_gt, positionsStored_pay,
      State.accept_pay]
  · rw [positionsStored, if_neg hrand]
    exact ⟨rfl, rfl⟩
  · subst hrand
    exact holdsPositions_decPositions hs.1

/-! ### The plausibility filter on a memory and on a trial -/

/-- The filter's three classes of characters, by their numbers (42_codecs.md R158). -/
abbrev printableCode (n : Nat) : Bool := (32 ≤ n && n ≤ 126) || n = 10 || n = 13

theorem printable_eq (b : Byte) : printable b = printableCode b.toNat := rfl

/-- The filter on a text given by its characters' numbers. -/
theorem plausible_map_range {f : Nat → Byte} {code : Nat → Nat} {n : Nat} (h : ∀ k, (f k).toNat = code k) :
    plausible ((List.range n).map f) = true ↔
      1 ≤ n ∧ n ≤ 10000 ∧ 5 * ((List.range n).countP fun k => printableCode (code k)) ≥ 4 * n := by
  have hcount : ((List.range n).map f).countP printable = (List.range n).countP fun k => printableCode (code k) := by
    rw [List.countP_map]
    exact List.countP_congr fun k _ => by rw [Function.comp_apply, printable_eq, h]
  rw [plausible_iff, hcount, List.length_map, List.length_range]

theorem toNat_ofNat_decodedChar (i : Instr) (s : State) (k : Nat) :
    (BitVec.ofNat 8 (decodedChar i s k)).toNat = decodedChar i s k := by
  have hchar : decodedChar i s k = readBits (schemeBits i s) (32 + 8 * k) 8 := by
    simp only [decodedChar, readBit_eq, readBits_eq_sum]
  rw [BitVec.toNat_ofNat, hchar, Nat.mod_eq_of_lt (readBits_lt _ _ _)]

/-- Settles O50: the filter accepts the message as framed, so `DEC.auto` is `DEC.lsb`. -/
theorem autoDeliversAPlausibleSequentialMessage : Obligations.AutoDeliversAPlausibleSequentialMessage := by
  intro s hs hpos hmax hfits hprintable
  have htrial : decodeSeq1 s = .ok (message .decLsb s) := trial_eq_ok_iff.2 ⟨hpos, hmax, hfits, rfl⟩
  have hplausible : plausible (message .decLsb s) = true :=
    (plausible_map_range (toNat_ofNat_decodedChar .decLsb s)).2 ⟨hpos, hmax, hprintable⟩
  obtain ⟨-, -, hauto, -⟩ := autoFollowsTheFallbackChain s hs
  obtain ⟨t, ht, hlen, hchars, hrest, hframe, hseq, -⟩ :=
    decodeDeliversAValidFrame .decLsb s (by decide) hs hpos hmax hfits
  obtain ⟨hpositions, hcount⟩ := hseq (by decide)
  rw [hpositions, hcount] at hframe
  exact ⟨t, (hauto _ htrial hplausible).trans ht, hlen, hchars, hrest, hframe⟩

/-- Settles O30: up to 10000 characters the verdict is the filter's on `PAY`, and above that it is no. -/
theorem plausReportsTheVerdict : Obligations.PlausReportsTheVerdict := by
  intro s
  refine ⟨_, rfl, ?_, rfl⟩
  change (if s.payLen.toNat > 10000 then false else plausible (memSlice s.pay 0 s.payLen.toNat)) = true ↔ _
  split
  next hlong => exact iff_of_false nofun fun ⟨_, hmax, _⟩ => hlong.not_ge hmax
  next => exact plausible_map_range fun k => by rw [Nat.zero_add]

end Sys2Proof.Machine

/-! ## Round trips (42_codecs.md R162)

A decoder that reads the framed bits an encoder stored gets the length and the masked characters back, and unmasks
them with the same key. -/

namespace Sys2Proof.Machine

open Sys2Proof.Claims

/-! ### What the decode must find -/

/-- The image registers and the cipher set-up are those of `s`. -/
structure SameSetup (s t : State) : Prop where
  width : t.width = s.width
  height : t.height = s.height
  pixSize : t.pixSize = s.pixSize
  cipherEn : t.ctrl.cipherEn = s.ctrl.cipherEn
  keyLen : t.keyLen = s.keyLen
  key : ∀ k < 256, memRead t.key k = memRead s.key k

namespace SameSetup

variable {s t : State} (h : SameSetup s t)
include h

theorem area_eq : area t = area s := by rw [area, h.width, h.height]

theorem decReady (hs : s.EncReady) : t.DecReady := by
  obtain ⟨⟨himg, hfits⟩, -, hkey, -⟩ := hs
  refine ⟨⟨?_, ?_⟩, ?_⟩
  · rwa [h.width, h.height]
  · rwa [h.width, h.height, State.pixBytes, h.pixSize]
  · rwa [State.KeyUsable, h.cipherEn, h.keyLen]

/-- Masking with a usable key and unmasking with the same key gives the text back (43_cipher_capacity.md R181). -/
theorem cipher_of_masked (hkey : s.KeyUsable) {text masked : Nat → Byte} {k : Nat} (hk : masked k = s.cipher text k) :
    t.cipher masked k = text k := by
  rw [cipher_eq_xor, hk, cipher_eq_xor, h.cipherEn, h.keyLen]
  split
  next hc =>
    obtain ⟨hsome, hmax⟩ := hkey hc
    rw [h.key _ ((Nat.mod_lt k hsome).trans_le hmax), BitVec.xor_assoc, BitVec.xor_self, BitVec.xor_zero]
  next => rw [BitVec.xor_zero, BitVec.xor_zero]

end SameSetup

/-! ### Reading a stored frame -/

/-- A decoder that finds the framed bits of `s` reads its masked payload (40_framer.md R106). -/
theorem trial_of_frame {d : Instr} {s t : State} (hs : s.EncReady) (havail : 32 + 8 * s.payLen.toNat ≤ available d t)
    (hbits : ∀ j < 32 + 8 * s.payLen.toNat, schemeBits d t j = s.frame j) :
    trial d t = .ok ((List.range s.payLen.toNat).map s.framedPayload) := by
  obtain ⟨-, hn, -, -, hmax⟩ := hs
  have hprefix : readPrefix (schemeBits d t) = s.payLen.toNat := calc
    readPrefix (schemeBits d t) = readPrefix s.frame :=
      readBits_congr fun j hj => hbits _ (by rw [Config.prefixBits] at hj; omega)
    _ = s.payLen.toNat := readPrefix_frameBit (by omega) _
  have hchar : ∀ i < s.payLen.toNat, readChar (schemeBits d t) i = s.framedPayload i := fun i hi => calc
    readChar (schemeBits d t) i = readChar s.frame i :=
      congrArg (BitVec.ofNat 8) (readBits_congr fun b hb => hbits _ (by omega))
    _ = s.framedPayload i := readChar_frameBit _ _ _
  rw [trial, unframe_eq_ok_iff, hprefix]
  exact ⟨hn, hmax, havail, List.map_congr_left fun i hi => (hchar i (List.mem_range.1 hi)).symm⟩

/-- A decode that finds the framed bits and the set-up of an encode returns the message. -/
theorem exec_dec_returns_message {d : Instr} {s t : State} (hd : d ∈ schemeDecCommands) (hs : s.EncReady)
    (hsame : SameSetup s t) (havail : 32 + 8 * s.payLen.toNat ≤ available d t)
    (hbits : ∀ j < 32 + 8 * s.payLen.toNat, schemeBits d t j = s.frame j) :
    ∃ u, exec d t = .next u ∧ u.status.error = none ∧ u.payLen = s.payLen ∧
      ∀ k < s.payLen.toNat, memRead u.pay k = memRead s.pay k := by
  refine ⟨_, exec_schemeDec_of_trial hd (hsame.decReady hs) (trial_of_frame hs havail hbits), ?_, ?_, fun k hk => ?_⟩
  · rw [deliver_complete_frame (positionsStored_eq d t.accept)]
    rfl
  · simp
  · obtain ⟨-, -, hkey, -⟩ := hs
    rw [State.complete_pay, memRead_deliver_pay, List.length_map, List.length_range, if_pos hk,
      positionsStored_cipher]
    exact hsame.cipher_of_masked hkey (by simp [hk, State.framedPayload])

/-! ### The bits an encoder stores are the bits its decoder reads -/

theorem seq1Bit_embedBits {F : Nat → Bool} {L j : Nat} (m : Memory 8) (hj : j < L) :
    seq1Bit (embedBits off F L m) j = F j := by
  rw [seq1Bit, memRead_embedBits (fun _ _ _ _ => off_injective) F m hj, bit0_setBit0]

theorem seq2Bit_embedSymbols {F : Nat → Bool} {K j : Nat} (m : Memory 8) (hj : j < 2 * K) :
    seq2Bit (embedSymbols F K m) j = F j := by
  have hdiv := Nat.div_add_mod j 2
  rw [seq2Bit, memRead_embedSymbols F m (by omega : j / 2 < K), symbolBit_setSymbol]
  split
  next heven => rw [show 2 * (j / 2) = j by omega]
  next hodd => rw [show 2 * (j / 2) + 1 = j by omega]

/-- Settles O51: each sequential decoder reads the bits where its encoder stored them. -/
theorem sequentialRoundTrip : Obligations.SequentialRoundTrip := by
  intro i d s t t' hpair hs ht hpix hw hh hsize hc hlen hkey
  have hsame : SameSetup s t' := ⟨hw, hh, hsize, hc, hlen, hkey⟩
  have hroom : 32 + 8 * s.payLen.toNat ≤ 3 * area t' := hsame.area_eq ▸ frameLen_le_rgbCount hs
  simp only [List.mem_cons, Prod.mk.injEq, List.not_mem_nil, or_false] at hpair
  obtain ⟨rfl, rfl⟩ | ⟨rfl, rfl⟩ := hpair
  · have hstored : t'.pix = embedBits off s.frame (32 + 8 * s.payLen.toNat) s.pix := by
      rw [exec_encLsb hs] at ht
      cases ht
      exact hpix
    refine exec_dec_returns_message (by decide) hs hsame hroom fun j hj => ?_
    change seq1Bit t'.pix j = _
    rw [hstored, seq1Bit_embedBits _ hj]
  · have hstored : t'.pix = embedSymbols s.frame (frameLen s.payLen.toNat / 2) s.pix := by
      rw [exec_encLsb2 hs] at ht
      cases ht
      exact hpix
    refine exec_dec_returns_message (by decide) hs hsame (hroom.trans (Nat.le_mul_of_pos_left _ Nat.two_pos))
      fun j hj => ?_
    change seq2Bit t'.pix j = _
    rw [hstored, half_frameLen, seq2Bit_embedSymbols _ (by omega)]

/-- The 1000 positions of a decode begin with those of the encode of a short message (41_posgen.md R128). -/
theorem encPositions_eq_take {s t : State} (hsame : SameSetup s t) (hshort : s.payLen.toNat ≤ 121) :
    encPositions s = (decPositions t).take (8 * s.payLen.toNat + 32) := by
  rw [encPositions, decPositions, hsame.width, hsame.height]
  exact positionsArePrefixStable.1 _ _ _ _ (by omega)

theorem randBit_embedBits {P Q : List Nat} {L j : Nat} (F : Nat → Bool) (m : Memory 8) (hj : j < L)
    (hinj : ∀ i < L, ∀ j < L, P.getD i 0 = P.getD j 0 → i = j) (hQ : Q.getD j 0 = P.getD j 0) :
    randBit (embedBits (fun j => P.getD j 0) F L m) Q j = F j := by
  rw [randBit, hQ, memRead_embedBits hinj F m hj, bit0_setBit0]

/-- Settles O52: up to 121 characters the frame's at most 1000 positions are among those the decode regenerates. -/
theorem randomRoundTrip : Obligations.RandomRoundTrip := by
  intro s t t' hs hshort ht hpix hw hh hsize hc hlen hkey
  have hsame : SameSetup s t' := ⟨hw, hh, hsize, hc, hlen, hkey⟩
  have htake := encPositions_eq_take hsame hshort
  have hroom : 32 + 8 * s.payLen.toNat ≤ (decPositions t').length := by
    rw [← length_encPositions hs, htake]
    exact List.length_take_le' _ _
  have hstored : t'.pix = embedBits (fun j => (encPositions s).getD j 0) s.frame (32 + 8 * s.payLen.toNat) s.pix := by
    rw [exec_encRandom hs] at ht
    cases ht
    exact hpix
  refine exec_dec_returns_message (by decide) hs hsame hroom fun j hj => ?_
  have hsamePos : (decPositions t').getD j 0 = (encPositions s).getD j 0 := by
    have hj : j < 8 * s.payLen.toNat + 32 := by omega
    rw [htake]
    simp [hj]
  change randBit t'.pix (decPositions t') j = _
  rw [hstored, randBit_embedBits _ _ hj (getD_encPositions_injective hs) hsamePos]

end Sys2Proof.Machine

/-! ## `CAP` and `XMASK` (43_cipher_capacity.md R180 to R185)

`CAP` stores the capacity of the image registers; `XMASK` refuses by the first of its three tests that holds and
otherwise replaces the payload by its mask, which the same mask undoes. -/

namespace Sys2Proof.Machine

open Sys2Proof.Claims

/-! ### `CAP` -/

theorem cap_eq_area (s : State) : s.cap = (3 * area s / 8 : Nat) - 32 := by
  rw [State.cap, cap, Nat.mul_assoc, Config.capReserve]
  rfl

theorem exec_cap (s : State) : exec .cap s = .next ((s.reporting none).setCapacity s.cap) := rfl

/-- Settles O29: the capacity is in the register's range, so storing it as a word loses nothing. -/
theorem capStoresTheCapacity : Obligations.CapStoresTheCapacity := by
  intro s
  obtain ⟨hlow, hhigh⟩ := cap_range s
  have hstored : ((s.reporting none).setCapacity s.cap).capacity.toInt = s.cap := toInt_ofInt_of_range hlow hhigh
  exact ⟨_, exec_cap s, hstored.trans (cap_eq_area s), hlow.trans_eq hstored.symm, hstored.trans_le hhigh, rfl⟩

/-! ### The mask -/

/-- Masking a byte that is masked already gives it back. -/
theorem xorMask_of_masked {T masked K : Nat → Byte} {m i : Nat} (h : masked i = xorMask T K m i) :
    xorMask masked K m i = T i := by
  rw [xorMask, h, xorMask, BitVec.xor_assoc, BitVec.xor_self, BitVec.xor_zero]

/-! ### `XMASK` -/

/-- `PAY` with its first `PAYLEN` elements masked (43_cipher_capacity.md R182). -/
def maskedPay (s : State) : Memory 8 :=
  memStore s.pay 0 ((List.range s.payLen.toNat).map (xorMask (memRead s.pay) (memRead s.key) s.keyLen.toNat))

theorem memRead_maskedPay_of_lt {s : State} {i : Nat} (hi : i < s.payLen.toNat) :
    memRead (maskedPay s) i = xorMask (memRead s.pay) (memRead s.key) s.keyLen.toNat i := by
  simp [maskedPay, memRead_memStore, hi]

theorem memRead_maskedPay_of_le {s : State} {i : Nat} (hi : s.payLen.toNat ≤ i) :
    memRead (maskedPay s) i = memRead s.pay i := by
  simp [maskedPay, memRead_memStore, hi.not_gt]

/-- Masking keeps the key and both lengths, so a second masking meets each byte with the same key byte. -/
theorem memRead_maskedPay_maskedPay (s : State) (i : Nat) :
    memRead (maskedPay (s.setPay (maskedPay s))) i = memRead s.pay i := by
  by_cases hi : i < s.payLen.toNat
  · exact (memRead_maskedPay_of_lt (s := s.setPay (maskedPay s)) hi).trans
      (xorMask_of_masked (memRead_maskedPay_of_lt hi))
  · have hi : s.payLen.toNat ≤ i := Nat.le_of_not_lt hi
    exact (memRead_maskedPay_of_le (s := s.setPay (maskedPay s)) hi).trans (memRead_maskedPay_of_le hi)

theorem firstFailing_xmaskTests (s : State) : firstFailing (xmaskTests s) =
    if s.keyLen.toNat = 0 then some .missingPassword
    else if 256 < s.keyLen.toNat then some .keyTooLong
    else if 10000 < s.payLen.toNat then some .lengthTooLarge
    else none := by
  simp only [xmaskTests, firstFailing_cons, firstFailing_nil, decide_eq_true_eq, Config.keyMax,
    Config.payMax, gt_iff_lt]

/-- A command whose checks pass runs its rule on the accepted state. -/
theorem runCommand_checked_of_none {tests : State → Tests} {s : State} (h : firstFailing (tests s.accept) = none)
    (rule : State → Ending) : runCommand (fun s => checked (tests s) s rule) s = .next (rule s.accept).state := by
  rw [runCommand_eq, checked_of_none h]

theorem exec_xmask_refused {s : State} {e : CmdError} (h : firstFailing (xmaskTests s) = some e) :
    exec .xmask s = .next (s.reporting (some e)) :=
  runCommand_checked_of_some (tests := xmaskTests) h _

theorem exec_xmask_of_ready {s : State} (h : s.XmaskReady) :
    exec .xmask s = .next ((s.reporting none).setPay (maskedPay s)) := by
  obtain ⟨hkey, hmax, hlen⟩ := h
  have hpass : firstFailing (xmaskTests s) = none := by
    rw [firstFailing_xmaskTests, if_neg hkey.ne', if_neg hmax.not_gt, if_neg hlen.not_gt]
  exact runCommand_checked_of_none (tests := xmaskTests) hpass _

/-- Settles O31: the first failing test decides, and once none fails `PAY` holds the mask. -/
theorem xmaskMasksThePayload : Obligations.XmaskMasksThePayload := by
  intro s
  refine ⟨fun hnone => ?_, fun hlong => ?_, fun hkey hmax hlarge => ?_, fun hready => ?_⟩
  · exact exec_xmask_refused ((firstFailing_xmaskTests s).trans (if_pos hnone))
  · refine exec_xmask_refused ((firstFailing_xmaskTests s).trans ?_)
    rw [if_neg (by omega), if_pos hlong]
  · refine exec_xmask_refused ((firstFailing_xmaskTests s).trans ?_)
    rw [if_neg hkey.ne', if_neg hmax.not_gt, if_pos hlarge]
  · exact ⟨_, exec_xmask_of_ready hready, fun _ => memRead_maskedPay_of_lt, fun _ => memRead_maskedPay_of_le, rfl⟩

/-- Settles O32: a byte masked twice is the byte, and `XMASK` leaves its own checks passing for a second one. -/
theorem maskingTwiceRestores : Obligations.MaskingTwiceRestores := by
  refine ⟨fun T K m _ i => ⟨rfl, xorMask_of_masked rfl⟩, fun s t hready ht => ?_⟩
  rw [exec_xmask_of_ready hready] at ht
  cases ht
  exact ⟨_, exec_xmask_of_ready (s := (s.reporting none).setPay (maskedPay s)) hready,
    memRead_maskedPay_maskedPay s⟩

end Sys2Proof.Machine

/-! ## The entropy number (44_analysis.md R192)

The search finds the largest number that passes the integer test, and the test is the comparison of `q / 65536` with
the Shannon entropy after taking logarithms. -/

namespace Sys2Proof.Machine

/-! ### The search -/

theorem entropyAtLeast_iff {T : Nat} {h : List Nat} {q : Nat} :
    entropyAtLeast T h q = true ↔ 2 ^ (q * T) * (h.map fun k => k ^ k).prod ^ 65536 ≤ (T ^ T) ^ 65536 := by
  rw [Nat.mul_comm q, pow_mul]
  exact decide_eq_true_iff

/-- The left side of the test grows with `q`. -/
theorem entropyAtLeast_of_le {T : Nat} {h : List Nat} {q q' : Nat} (hle : q' ≤ q)
    (hq : entropyAtLeast T h q = true) : entropyAtLeast T h q' = true := by
  rw [entropyAtLeast_iff] at hq ⊢
  refine le_trans (Nat.mul_le_mul_right _ ?_) hq
  exact Nat.pow_le_pow_right (by decide) (Nat.mul_le_mul_right T hle)

theorem isGreatest_entropySearch {T : Nat} {h : List Nat} (bits : Nat) : ∀ q, entropyAtLeast T h q = true →
    (∀ q', entropyAtLeast T h q' = true → q' < q + 2 ^ bits) →
    IsGreatest {q' | entropyAtLeast T h q' = true} (entropySearch T h bits q) := by
  induction bits with
  | zero => exact fun q hq hlt => ⟨hq, fun q' hq' => Nat.le_of_lt_succ (hlt q' hq')⟩
  | succ bits ih =>
    intro q hq hlt
    unfold entropySearch
    by_cases hbit : entropyAtLeast T h (q + 2 ^ bits) = true
    · rw [if_pos hbit]
      refine ih _ hbit fun q' hq' => ?_
      rw [Nat.add_assoc, ← Nat.two_mul, ← pow_succ']
      exact hlt q' hq'
    · rw [if_neg hbit]
      refine ih _ hq fun q' hq' => ?_
      by_contra hge
      exact hbit (entropyAtLeast_of_le (Nat.le_of_not_lt hge) hq')

theorem prod_pow_self_le {S : Nat} (h : List Nat) (hS : ∀ k ∈ h, k ≤ S) :
    (h.map fun k => k ^ k).prod ≤ S ^ h.sum := by
  induction h with
  | nil => exact le_rfl
  | cons k h ih =>
    obtain ⟨hk, hS⟩ := List.forall_mem_cons.1 hS
    rw [List.map_cons, List.prod_cons, List.sum_cons, pow_add]
    exact Nat.mul_le_mul (Nat.pow_le_pow_left hk k) (ih hS)

/-- The entropy is not negative. -/
theorem entropyAtLeast_zero (h : List Nat) : entropyAtLeast h.sum h 0 = true := by
  rw [entropyAtLeast_iff, Nat.zero_mul, pow_zero, Nat.one_mul]
  gcongr
  exact prod_pow_self_le h fun _ => List.le_sum_of_mem

theorem isGreatest_entropyQ16 {h : List Nat} (hlen : h.length = 256) (hpos : 0 < h.sum) :
    IsGreatest {q | entropyAtLeast h.sum h q = true} (entropyQ16 h.sum h) :=
  isGreatest_entropySearch 20 0 (entropyAtLeast_zero h) fun q hq => by
    have := le_of_entropyAtLeast hlen hpos hq
    omega

/-- The entropy number of the histogram of samples. -/
theorem isGreatest_entropyQ16_histogram {samples : List Byte} (hne : samples ≠ []) :
    IsGreatest {q | entropyAtLeast samples.length (histogram samples) q = true}
      (entropyQ16 samples.length (histogram samples)) := by
  have hpos := List.length_pos_of_ne_nil hne
  rw [← histogram_sum samples] at hpos ⊢
  exact isGreatest_entropyQ16 (histogram_length samples) hpos

/-- Settles O55: the search's result is the greatest number that passes the test. -/
theorem entropyIsTheLargestExponent : Obligations.EntropyIsTheLargestExponent := by
  intro samples hne T h q hT hh hq
  have hh : h = histogram samples := hh
  have hlen : h.length = 256 := hh ▸ histogram_length samples
  have hsum : h.sum = T := by rw [hh, hT, histogram_sum]
  have hpos : 0 < h.sum := by rw [hsum, hT]; exact List.length_pos_of_ne_nil hne
  obtain ⟨hpass, hgreatest⟩ := isGreatest_entropyQ16 hlen hpos
  have hle := entropyQ16_le hlen hpos
  rw [hsum, ← hq] at hpass hgreatest hle
  exact ⟨entropyAtLeast_iff.1 hpass, fun q' hq' => hgreatest (entropyAtLeast_iff.2 hq'), hle⟩

/-! ### The Shannon entropy -/

/-- `Hent` of R192, in bits. -/
noncomputable def shannonEntropy (samples : List Byte) : ℝ :=
  -∑ v ∈ Finset.range 256, ((samples.count (BitVec.ofNat 8 v) : ℝ) / samples.length) *
    Real.logb 2 ((samples.count (BitVec.ofNat 8 v) : ℝ) / samples.length)

/-- The Shannon entropy of the counts `c` with the sum `T`, without quotients inside the logarithms. -/
theorem shannon_eq {n T : Nat} (c : Nat → Nat) (hT : 0 < T) (hsum : ∑ v ∈ Finset.range n, c v = T) :
    -∑ v ∈ Finset.range n, ((c v : ℝ) / T) * Real.logb 2 ((c v : ℝ) / T) =
      Real.logb 2 T - (∑ v ∈ Finset.range n, (c v : ℝ) * Real.logb 2 (c v)) / T := by
  have hT' : (T : ℝ) ≠ 0 := Nat.cast_ne_zero.2 hT.ne'
  have hterm : ∀ v, ((c v : ℝ) / T) * Real.logb 2 ((c v : ℝ) / T) =
      ((c v : ℝ) * Real.logb 2 (c v) - c v * Real.logb 2 T) / T := fun v => by
    obtain hc | hc := Nat.eq_zero_or_pos (c v)
    · simp [hc]
    · rw [Real.logb_div (Nat.cast_ne_zero.2 hc.ne') hT']
      ring
  simp only [hterm]
  rw [← Finset.sum_div, Finset.sum_sub_distrib, ← Finset.sum_mul, ← Nat.cast_sum, hsum]
  field_simp
  ring

/-- The test of R192 with any exponent `E` in place of 65536, in logarithms. -/
theorem entropy_test_iff_logb {T P q E : Nat} (hT : 0 < T) (hP : 0 < P) :
    2 ^ (q * T) * P ^ E ≤ (T ^ T) ^ E ↔ (q : ℝ) ≤ (Real.logb 2 T - Real.logb 2 P / T) * E := by
  have hT' : (0 : ℝ) < T := Nat.cast_pos.2 hT
  have hP' : (0 : ℝ) < P := Nat.cast_pos.2 hP
  have htwo : Real.logb 2 2 = 1 := Real.logb_self_eq_one (by norm_num)
  calc 2 ^ (q * T) * P ^ E ≤ (T ^ T) ^ E
      ↔ (2 : ℝ) ^ (q * T) * (P : ℝ) ^ E ≤ ((T : ℝ) ^ T) ^ E := by exact_mod_cast Iff.rfl
    _ ↔ q * T + E * Real.logb 2 P ≤ E * (T * Real.logb 2 T) := by
        rw [← Real.logb_le_logb one_lt_two (by positivity) (by positivity),
          Real.logb_mul (by positivity) (by positivity)]
        simp only [Real.logb_pow, htwo, mul_one, Nat.cast_mul]
    _ ↔ (q : ℝ) * T ≤ (Real.logb 2 T - Real.logb 2 P / T) * E * T := by
        have hright : (Real.logb 2 T - Real.logb 2 P / T) * E * T = E * (T * Real.logb 2 T) - E * Real.logb 2 P := by
          field_simp
        rw [hright, le_sub_iff_add_le]
    _ ↔ (q : ℝ) ≤ (Real.logb 2 T - Real.logb 2 P / T) * E := mul_le_mul_iff_left₀ hT'

theorem logb_prod_pow_self (c : Nat → Nat) (n : Nat) :
    Real.logb 2 (∏ v ∈ Finset.range n, c v ^ c v : Nat) = ∑ v ∈ Finset.range n, (c v : ℝ) * Real.logb 2 (c v) := by
  rw [Nat.cast_prod, Real.logb_prod _ _ fun v _ => Nat.cast_ne_zero.2 Nat.pow_self_pos.ne']
  simp only [Nat.cast_pow, Real.logb_pow]

/-- The integer test of R192 compares `q` with the Shannon entropy times 65536. -/
theorem entropyAtLeast_iff_le_shannon {samples : List Byte} (hne : samples ≠ []) (q : Nat) :
    entropyAtLeast samples.length (histogram samples) q = true ↔
      (q : ℝ) ≤ shannonEntropy samples * 65536 := by
  have hpos := List.length_pos_of_ne_nil hne
  have hsum : ∑ v ∈ Finset.range 256, samples.count (BitVec.ofNat 8 v) = samples.length := by
    rw [← histogram_sum samples]
    rfl
  have hprod : ((histogram samples).map fun k => k ^ k).prod =
      ∏ v ∈ Finset.range 256, samples.count (BitVec.ofNat 8 v) ^ samples.count (BitVec.ofNat 8 v) :=
    congrArg List.prod List.map_map
  rw [entropyAtLeast_iff, hprod, entropy_test_iff_logb hpos (Finset.prod_pos fun _ _ => Nat.pow_self_pos),
    logb_prod_pow_self, shannonEntropy, shannon_eq (fun v => samples.count (BitVec.ofNat 8 v)) hpos hsum,
    Nat.cast_ofNat]

/-- Settles O56: the entropy number passes the comparison with the Shannon entropy and its successor does not. -/
theorem entropyIsTheFloorOfShannonEntropy : Obligations.EntropyIsTheFloorOfShannonEntropy := by
  intro samples hne
  obtain ⟨hpass, hgreatest⟩ := isGreatest_entropyQ16_histogram hne
  change _ = ⌊shannonEntropy samples * 65536⌋
  refine (Int.floor_eq_iff.2 ⟨?_, ?_⟩).symm
  · exact_mod_cast (entropyAtLeast_iff_le_shannon hne _).1 hpass
  · rw [← not_le]
    intro hsucc
    have hnext : entropyAtLeast samples.length (histogram samples)
        (entropyQ16 samples.length (histogram samples) + 1) = true :=
      (entropyAtLeast_iff_le_shannon hne _).2 (by exact_mod_cast hsucc)
    exact Nat.not_succ_le_self _ (hgreatest hnext)

end Sys2Proof.Machine

/-! ## `ANALYZE` (44_analysis.md R190 to R201)

What the command records is a function of the list of the RGB samples and of two draws; the rules count over the
channel indices `j`, whose samples are read at `off j`. -/

namespace Sys2Proof.Machine

open Sys2Proof.Claims

/-! ### The samples by channel index -/

theorem rgbSamples_eq_map_off (m : Memory 8) (n : Nat) :
    rgbSamples m n = (List.range (3 * n)).map fun j => memRead m (off j) := by
  induction n with
  | zero => rfl
  | succ n ih =>
    have hpixel : [memRead m (4 * n), memRead m (4 * n + 1), memRead m (4 * n + 2)] =
        (List.range 3).map fun c => memRead m (off (3 * n + c)) := by
      rw [List.map_congr_left fun c hc => by rw [off_pixel n (List.mem_range.1 hc)]]
      rfl
    have hsucc : rgbSamples m (n + 1) =
        rgbSamples m n ++ [memRead m (4 * n), memRead m (4 * n + 1), memRead m (4 * n + 2)] := by
      simp [rgbSamples, List.range_succ]
    rw [hsucc, ih, hpixel, Nat.mul_succ, List.range_add, List.map_append, List.map_map]
    rfl

theorem countP_rgbSamples (m : Memory 8) (n : Nat) (p : Byte → Bool) :
    (rgbSamples m n).countP p = (List.range (3 * n)).countP fun j => p (memRead m (off j)) := by
  rw [rgbSamples_eq_map_off, List.countP_map]
  rfl

/-! ### The histogram of the image -/

/-- `h[0 .. 255]` by the rule's own counts. -/
def imageHistogram (s : State) : List Nat := (List.range 256).map (sampleCount s)

theorem histogram_rgbSamples (s : State) : histogram (rgbSamples s.pix (area s)) = imageHistogram s := by
  refine List.map_congr_left fun v hv => ?_
  have hvalue : (BitVec.ofNat 8 v).toNat = v := Nat.mod_eq_of_lt (List.mem_range.1 hv)
  rw [List.count_eq_countP, countP_rgbSamples]
  refine List.countP_congr fun j _ => ?_
  rw [beq_iff_eq, decide_eq_true_iff, ← BitVec.toNat_inj, hvalue]

theorem imageHistogram_sum (s : State) : (imageHistogram s).sum = 3 * area s := by
  rw [← histogram_rgbSamples, histogram_sum, rgbSamples_length]

theorem imageHistogram_length (s : State) : (imageHistogram s).length = 256 := by simp [imageHistogram]

theorem mem_imageHistogram {s : State} {k : Nat} : k ∈ imageHistogram s ↔ ∃ v < 256, sampleCount s v = k := by
  simp [imageHistogram]

/-- An odd value `2*k + 1` below 256 is met at one `k` below 128, an even value at none. -/
theorem sum_indicator_odd (x : Byte) :
    ∑ k ∈ Finset.range 128, (if x == BitVec.ofNat 8 (2 * k + 1) then 1 else 0) =
      if x.toNat % 2 = 1 then 1 else 0 := by
  have heq : ∀ k ∈ Finset.range 128,
      ((x == BitVec.ofNat 8 (2 * k + 1)) = true ↔ x.toNat % 2 = 1 ∧ x.toNat / 2 = k) := by
    intro k hk
    have hvalue : (BitVec.ofNat 8 (2 * k + 1)).toNat = 2 * k + 1 :=
      Nat.mod_eq_of_lt (by have := Finset.mem_range.1 hk; omega)
    rw [beq_iff_eq, ← BitVec.toNat_inj, hvalue]
    omega
  have hhalf : x.toNat / 2 ∈ Finset.range 128 := Finset.mem_range.2 (by have := x.isLt; omega)
  rw [Finset.sum_congr rfl fun k hk => if_congr (heq k hk) rfl rfl]
  by_cases hodd : x.toNat % 2 = 1
  · simp [hodd, Finset.sum_ite_eq, hhalf]
  · simp [hodd]

theorem sum_count_odd (samples : List Byte) :
    ∑ k ∈ Finset.range 128, samples.count (BitVec.ofNat 8 (2 * k + 1)) = samples.countP fun x => x.toNat % 2 = 1 := by
  induction samples with
  | nil => simp
  | cons x samples ih =>
    simp only [List.count_cons, Finset.sum_add_distrib, List.countP_cons, sum_indicator_odd, decide_eq_true_eq, ih]

theorem lsbOnesOf_histogram (samples : List Byte) :
    lsbOnesOf (histogram samples) = samples.countP fun x => x.toNat % 2 = 1 := by
  rw [← sum_count_odd]
  refine congrArg List.sum (List.map_congr_left (l := List.range 128) fun k hk => ?_)
  have hk : 2 * k + 1 < 256 := by have := List.mem_range.1 hk; omega
  simp [histogram, Config.histSize, hk]

theorem lsbOnesOf_imageHistogram (s : State) : lsbOnesOf (imageHistogram s) = oddCount s := by
  rw [← histogram_rgbSamples, lsbOnesOf_histogram, countP_rgbSamples]
  rfl

theorem biasDistance_imageHistogram (s : State) :
    biasDistance (3 * area s) (lsbOnesOf (imageHistogram s)) = biasOf s := by
  rw [lsbOnesOf_imageHistogram]
  rfl

theorem max?_eq_histMaxOf {h : List Nat} (hne : h ≠ []) : h.max? = some (histMaxOf h) := by
  cases h with
  | nil => exact absurd rfl hne
  | cons k h => rw [List.max?_cons', histMaxOf, List.foldl_cons, Nat.zero_max]

theorem le_histMaxOf {h : List Nat} {k : Nat} (hk : k ∈ h) : k ≤ histMaxOf h :=
  (List.max?_eq_some_iff.1 (max?_eq_histMaxOf (List.ne_nil_of_mem hk))).2 k hk

theorem histMaxOf_pos {h : List Nat} (hpos : 0 < h.sum) : 0 < histMaxOf h := by
  obtain ⟨k, hk, hne⟩ := List.exists_mem_ne_zero_of_sum_ne_zero hpos.ne'
  exact (Nat.pos_of_ne_zero hne).trans_le (le_histMaxOf hk)

/-- `HISTMAX` is the count of some value, and no value is counted more often (R199). -/
theorem histMaxOf_imageHistogram (s : State) :
    (∃ v < 256, sampleCount s v = histMaxOf (imageHistogram s)) ∧
      ∀ v < 256, sampleCount s v ≤ histMaxOf (imageHistogram s) := by
  have hne : imageHistogram s ≠ [] := List.ne_nil_of_length_pos (by rw [imageHistogram_length]; decide)
  have hmem := List.max?_mem (max?_eq_histMaxOf hne)
  exact ⟨mem_imageHistogram.1 hmem, fun v hv => le_histMaxOf (mem_imageHistogram.2 ⟨v, hv, rfl⟩)⟩

/-! ### The draws -/

theorem nextDraw_toNat (s : State) : s.nextDraw.toNat = drawAt s 0 := by
  unfold State.nextDraw drawAt
  cases s.drawScript <;> rfl

theorem nextDraw_eq_iff {s s' : State} : s'.nextDraw = s.nextDraw ↔ drawAt s' 0 = drawAt s 0 := by
  rw [← nextDraw_toNat, ← nextDraw_toNat, BitVec.toNat_inj]

theorem drawAt_afterDraw (s : State) (k : Nat) : drawAt s.afterDraw k = drawAt s (k + 1) := by
  unfold drawAt State.afterDraw
  rw [List.getElem?_tail, Nat.add_assoc, Nat.add_comm 1]

/-! ### The command -/

/-- What `ANALYZE` leaves once its tests pass. -/
def analyzed (s : State) : State :=
  (s.afterDraw.afterDraw.recordAnalysis (3 * area s) (imageHistogram s) s.nextDraw s.afterDraw.nextDraw).reporting none

theorem exec_analyze_refused {s : State} {e : CmdError} (h : firstFailing (imageTests s) = some e) :
    exec .analyze s = .next (s.reporting (some e)) :=
  runCommand_checked_of_some (tests := imageTests) h _

theorem exec_analyze_of_hasImage {s : State} (h : s.HasImage) : exec .analyze s = .next (analyzed s) := by
  refine (runCommand_checked_of_none (tests := imageTests) (s := s) (imageTests_pass h) _).trans ?_
  rw [analyzed, ← histogram_rgbSamples]
  rfl

/-! ### The recorded values -/

/-- A number that fits a register is stored as it is. -/
theorem toNat_ofNat_of_le {n x b : Nat} (hx : x ≤ b) (hb : b < 2 ^ n) : (BitVec.ofNat n x).toNat = x :=
  (BitVec.toNat_ofNat x n).trans (Nat.mod_eq_of_lt (hx.trans_lt hb))

theorem sampleCount_le (s : State) (v : Nat) : sampleCount s v ≤ 3 * area s :=
  List.countP_le_length.trans_eq List.length_range

theorem oddCount_le (s : State) : oddCount s ≤ 3 * area s := List.countP_le_length.trans_eq List.length_range

/-- The list is made opaque first, so that no comparison evaluates its 256 entries. -/
theorem analyzed_hist (s : State) :
    (analyzed s).hist = memStore s.hist 0 ((imageHistogram s).map (BitVec.ofNat 32)) := by
  unfold analyzed
  generalize imageHistogram s = h
  rfl

theorem memRead_analyzed_hist_of_lt {s : State} {v : Nat} (hv : v < 256) :
    memRead (analyzed s).hist v = BitVec.ofNat 32 (sampleCount s v) := by
  rw [analyzed_hist, memRead_memStore, if_pos (by simp [imageHistogram_length, hv])]
  simp [imageHistogram, hv]

theorem memRead_analyzed_hist_of_le {s : State} {v : Nat} (hv : 256 ≤ v) :
    memRead (analyzed s).hist v = memRead s.hist v := by
  rw [analyzed_hist, memRead_memStore, if_neg (by simp [imageHistogram_length, hv])]

theorem analyzed_drawScript (s : State) : (analyzed s).drawScript = s.drawScript.drop 2 := by
  change s.drawScript.tail.tail = _
  rw [← List.drop_one, List.drop_tail]

theorem analyzed_entropy (s : State) :
    (analyzed s).entropy = BitVec.ofNat 20 (entropyQ16 (3 * area s) (imageHistogram s)) := rfl

theorem analyzed_lsbBias (s : State) : (analyzed s).lsbBias.toNat = biasOf s * 65536 / (3 * area s) := by
  have hle : lsbBiasQ16 (3 * area s) (biasOf s) ≤ 65536 := lsbBiasQ16_le (biasDistance_le (oddCount_le s))
  rw [← biasDistance_imageHistogram] at hle ⊢
  exact toNat_ofNat_of_le hle (by decide : 65536 < 2 ^ 17)

theorem analyzed_chiSq (s : State) :
    (analyzed s).chiSq.toNat = min 6553600 (6553600 * biasOf s / (3 * area s) + 50 * drawAt s 0) := by
  rw [← nextDraw_toNat, ← biasDistance_imageHistogram]
  exact toNat_ofNat_of_le (Nat.min_le_left _ _) (by decide : 6553600 < 2 ^ 23)

theorem analyzed_prob (s : State) : (analyzed s).prob.toNat = min 6225920
    (((if 50 * biasOf s > 3 * area s then 30 else 0) +
      (if entropyQ16 (3 * area s) (imageHistogram s) < 491520 then 20 else 0) +
      (if 6553600 * biasOf s + 50 * drawAt s 0 * (3 * area s) > 3276800 * (3 * area s) then 30 else 0)) * 65536 +
      20 * drawAt s 1) := by
  rw [← nextDraw_toNat, ← biasDistance_imageHistogram, ← drawAt_afterDraw, ← nextDraw_toNat]
  exact toNat_ofNat_of_le (Nat.min_le_left _ _) (by decide : 6225920 < 2 ^ 23)

section HasImage

variable {s : State} (himg : s.HasImage)
include himg

/-- A count of samples fits a word. -/
theorem toNat_ofNat_of_le_rgbCount {x : Nat} (hx : x ≤ 3 * area s) : (BitVec.ofNat 32 x).toNat = x :=
  Nat.mod_eq_of_lt (hx.trans_lt (rgbCount_lt himg.2))

theorem analyzed_total : (analyzed s).total.toNat = 3 * area s := toNat_ofNat_of_le_rgbCount himg le_rfl

theorem analyzed_lsbOnes : (analyzed s).lsbOnes.toNat = oddCount s := by
  rw [← lsbOnesOf_imageHistogram]
  exact toNat_ofNat_of_le_rgbCount himg (imageHistogram_sum s ▸ lsbOnesOf_le_sum _)

theorem analyzed_histMax : (analyzed s).histMax.toNat = histMaxOf (imageHistogram s) :=
  toNat_ofNat_of_le_rgbCount himg (imageHistogram_sum s ▸ histMaxOf_le_sum _)

theorem analyzed_hist_toNat {v : Nat} (hv : v < 256) : (memRead (analyzed s).hist v).toNat = sampleCount s v := by
  rw [memRead_analyzed_hist_of_lt hv]
  exact toNat_ofNat_of_le_rgbCount himg (sampleCount_le s v)

end HasImage

/-- Settles O54: the first failing test decides, and once none fails the registers hold the values of their rules. -/
theorem analyzeRecordsTheSnapshot : Obligations.AnalyzeRecordsTheSnapshot := by
  intro s
  refine ⟨fun hnone => exec_analyze_refused (imageTests_noImage hnone),
    fun hpos hlarge => exec_analyze_refused (imageTests_tooLarge hpos hlarge), fun himg => ?_⟩
  obtain ⟨⟨v, hv, hmax⟩, hle⟩ := histMaxOf_imageHistogram s
  rw [← analyzed_histMax himg] at hmax hle
  exact ⟨_, exec_analyze_of_hasImage himg, fun v => analyzed_hist_toNat himg, fun v => memRead_analyzed_hist_of_le,
    analyzed_total himg, analyzed_lsbOnes himg, analyzed_entropy s, analyzed_lsbBias s, analyzed_chiSq s,
    analyzed_prob s, ⟨v, hv, hmax.symm⟩, hle, BitVec.add_assoc _ _ _, rfl, analyzed_drawScript s,
    exec_writesOnly (exec_analyze_of_hasImage himg)⟩

/-- Settles O57: the register of each value holds it exactly, and at least three samples are counted, each once. -/
theorem analyzeResultsStayInRange : Obligations.AnalyzeResultsStayInRange := by
  intro s himg
  have hpos : 0 < (imageHistogram s).sum := imageHistogram_sum s ▸ Nat.mul_pos (by decide) himg.1
  have hsum : ((List.range 256).map fun v => (memRead (analyzed s).hist v).toNat).sum = (imageHistogram s).sum :=
    congrArg List.sum (List.map_congr_left fun v hv => analyzed_hist_toNat himg (List.mem_range.1 hv))
  refine ⟨_, exec_analyze_of_hasImage himg, rfl, ?_, ?_, ?_, ?_, ?_, ?_, ?_, ?_, ?_⟩
  · rw [analyzed_entropy, ← imageHistogram_sum]
    exact toNat_ofNat_le (entropyQ16_le (imageHistogram_length s) hpos)
  · exact (analyzed_lsbBias s).trans_le (lsbBiasQ16_le (biasDistance_le (oddCount_le s)))
  · exact (analyzed_chiSq s).trans_le (Nat.min_le_left _ _)
  · exact (analyzed_prob s).trans_le (Nat.min_le_left _ _)
  · exact analyzed_total himg ▸ Nat.mul_le_mul_left 3 himg.1
  · rw [analyzed_lsbOnes himg, analyzed_total himg]
    exact oddCount_le s
  · rw [analyzed_histMax himg]
    exact histMaxOf_pos hpos
  · rw [analyzed_histMax himg, analyzed_total himg, ← imageHistogram_sum]
    exact histMaxOf_le_sum _
  · rw [hsum, imageHistogram_sum, analyzed_total himg]

/-- Settles O58: the results are those of the histogram, which the RGB samples fix, and of the two draws. -/
theorem analyzeIsReproducible : Obligations.AnalyzeIsReproducible := by
  intro s s' t t' himg himg' hwidth hheight hpix ht ht'
  rw [exec_analyze_of_hasImage himg] at ht
  rw [exec_analyze_of_hasImage himg'] at ht'
  cases ht
  cases ht'
  have harea : area s' = area s := by rw [area, hwidth, hheight]
  have hread : ∀ j ∈ List.range (3 * area s), memRead s'.pix (off j) = memRead s.pix (off j) := fun j hj =>
    hpix _ (by have := off_not_alpha j; omega) ((off_lt_iff j _).2 (List.mem_range.1 hj))
  have hcount : ∀ v, sampleCount s' v = sampleCount s v := fun v => by
    rw [sampleCount, harea]
    exact List.countP_congr fun j hj => by rw [hread j hj]
  have hhist : imageHistogram s' = imageHistogram s := List.map_congr_left fun v _ => hcount v
  refine ⟨fun v hv => by rw [memRead_analyzed_hist_of_lt hv, memRead_analyzed_hist_of_lt hv, hcount], ?_⟩
  unfold analyzed
  rw [harea, hhist]
  generalize imageHistogram s = h
  refine ⟨rfl, rfl, rfl, rfl, rfl, fun h1 => ?_, fun h1 h2 => ?_⟩ <;> rw [← nextDraw_eq_iff] at h1
  · rw [h1]
    rfl
  · rw [← drawAt_afterDraw, ← drawAt_afterDraw, ← nextDraw_eq_iff] at h2
    rw [h1, h2]
    rfl

end Sys2Proof.Machine

/-! ## `NOISE`, `NOP` and `SRST` (45_noise_system.md)

The only thing one pixel of `NOISE` hands to the next, samples apart, is how many draws were taken. So the state after
the first `n` pixels is the state before them with `drawsBefore s n` draws taken and with other samples
(`noised_eq`), and pixel `p` finds its draws at `drawsBefore s p`. -/

namespace Sys2Proof.Machine

open Sys2Proof.Claims

/-! ### One sample (R210, R213) -/

/-- The clamped sum is in the range of a byte, so storing it as one loses nothing. -/
theorem clampAdd_toNat (x : Byte) (d : Int) :
    ((clampAdd x d).toNat : Int) = min 255 (max 0 ((x.toNat : Int) + d)) := by
  have hrange : 0 ≤ clamp (x.toNat + d) 0 255 ∧ clamp (x.toNat + d) 0 255 < 256 := by
    unfold clamp
    omega
  obtain ⟨hlow, hhigh⟩ := hrange
  rw [clampAdd, BitVec.toNat_ofInt, Int.toNat_of_nonneg (Int.emod_nonneg _ (by decide))]
  exact Int.emod_eq_of_lt hlow hhigh

/-- A clamped sum that is the sample itself keeps bit 0; one that is a neighbour of the sample inverts it. -/
theorem clampAdd_getLsbD_zero {x : Byte} {d : Int} (hd : d = -1 ∨ d = 1) :
    (clampAdd x d).getLsbD 0 =
      if (d = -1 ∧ x.toNat = 0) ∨ (d = 1 ∧ x.toNat = 255) then x.getLsbD 0 else !x.getLsbD 0 := by
  have hsum := clampAdd_toNat x d
  have hbyte := x.isLt
  rw [getLsbD_eq_decide, getLsbD_eq_decide, pow_zero, Nat.div_one, Nat.div_one, ← decide_not]
  split
  next hheld =>
    have hsame : (clampAdd x d).toNat = x.toNat := by omega
    rw [hsame]
  next hfree =>
    have hneighbour : ((clampAdd x d).toNat : Int) = x.toNat + d := by omega
    exact decide_eq_decide.2 (by omega)

/-- Settles O60: the two samples that the clamp holds are the two ends of the range. -/
theorem noiseInvertsBitZeroUnlessClamped : Obligations.NoiseInvertsBitZeroUnlessClamped := by
  intro x d hd
  refine ⟨clampAdd_toNat x d, ?_⟩
  rw [clampAdd_getLsbD_zero hd]
  simp only [← BitVec.toNat_inj, BitVec.toNat_ofNat, Nat.zero_mod, Nat.reducePow, Nat.reduceMod]

/-! ### Draws (44_analysis.md R194) -/

/-- The state after `n` draws. -/
def State.afterDraws (n : Nat) (s : State) : State :=
  { s with drawScript := s.drawScript.drop n, drawn := s.drawn + n, rndCnt := s.rndCnt + BitVec.ofNat 32 n }

theorem State.afterDraws_zero (s : State) : s.afterDraws 0 = s := by simp [State.afterDraws]

theorem State.afterDraw_afterDraws (n : Nat) (s : State) : (s.afterDraws n).afterDraw = s.afterDraws (n + 1) := by
  simp [State.afterDraw, State.afterDraws, Nat.add_assoc, BitVec.add_assoc, BitVec.ofNat_add]

theorem drawAt_afterDraws (n : Nat) (s : State) (k : Nat) : drawAt (s.afterDraws n) k = drawAt s (n + k) := by
  simp only [drawAt, State.afterDraws, List.getElem?_drop, Nat.add_assoc]

/-! ### One pixel (R210) -/

theorem memRead_nudgePixel (p : Nat) (d : Int) (m : Memory 8) {c : Nat} (hc : c < 3) :
    memRead (nudgePixel p d m) (4 * p + c) = clampAdd (memRead m (4 * p + c)) d :=
  (memRead_loop (4 * p + ·) (fun _ x => clampAdd x d) m 3 fun _ _ _ _ => Nat.add_left_cancel).1 c hc

/-- A pixel whose draws are those from `k` on is selected. -/
abbrev Selected (s : State) (k : Nat) : Prop := 10 * drawAt s k < 65536

/-- The sign that draw `k` gives a pixel. -/
def signAt (s : State) (k : Nat) : Int := if drawAt s k < 32768 then -1 else 1

/-- One pixel after `n` draws, whatever the samples are: one or two draws more, and its own samples changed. -/
theorem noisePixel_afterDraws (s : State) (m : Memory 8) (n p : Nat) : noisePixel ((s.afterDraws n).setPix m) p =
    if Selected s n then (s.afterDraws (n + 2)).setPix (nudgePixel p (signAt s (n + 1)) m)
    else (s.afterDraws (n + 1)).setPix m := by
  have hfirst : ((s.afterDraws n).setPix m).nextDraw.toNat = drawAt s n :=
    (nextDraw_toNat _).trans (drawAt_afterDraws n s 0)
  have hsecond : ((s.afterDraws n).setPix m).afterDraw.nextDraw.toNat = drawAt s (n + 1) :=
    (nextDraw_toNat _).trans ((drawAt_afterDraw _ 0).trans (drawAt_afterDraws n s 1))
  rw [noisePixel, selects, signOf, hfirst, hsecond, ← State.afterDraw_afterDraws (n + 1), ← State.afterDraw_afterDraws n]
  simp only [decide_eq_true_eq]
  rfl

/-! ### The loop -/

/-- The state after the first `n` pixels. -/
def noised (s : State) (n : Nat) : State := (List.range n).foldl noisePixel s

theorem noised_succ (s : State) (n : Nat) : noised s (n + 1) = noisePixel (noised s n) n := by
  rw [noised, List.range_succ, List.foldl_append]
  rfl

theorem noised_eq (s : State) (n : Nat) :
    noised s n = (s.afterDraws (drawsBefore s n)).setPix (noised s n).pix := by
  induction n with
  | zero => exact congrArg (State.setPix s.pix) s.afterDraws_zero.symm
  | succ n ih =>
    rw [noised_succ, ih, noisePixel_afterDraws, drawsBefore]
    split <;> rfl

/-- What `NOISE` makes of a colour sample `x` of pixel `p`. -/
def noisedSample (s : State) (p : Nat) (x : Byte) : Byte :=
  if Selected s (drawsBefore s p) then clampAdd x (signAt s (drawsBefore s p + 1)) else x

theorem memRead_noisePixel_noised (s : State) (p : Nat) {c : Nat} (hc : c < 3) :
    memRead (noisePixel (noised s p) p).pix (4 * p + c) = noisedSample s p (memRead (noised s p).pix (4 * p + c)) := by
  rw [noised_eq, noisePixel_afterDraws, noisedSample]
  split
  · exact memRead_nudgePixel p _ _ hc
  · rfl

/-- A colour sample is changed in its own pixel's turn of the loop and in no other. -/
theorem memRead_noised {s : State} {p n : Nat} (hp : p < n) {c : Nat} (hc : c < 3) :
    memRead (noised s n).pix (4 * p + c) = noisedSample s p (memRead s.pix (4 * p + c)) := by
  induction n with
  | zero => exact absurd hp (Nat.not_lt_zero p)
  | succ n ih =>
    rw [noised_succ]
    obtain rfl | hlt := (Nat.le_of_lt_succ hp).eq_or_lt
    · rw [memRead_noisePixel_noised s p hc, noised, memRead_foldl_noisePixel_of_ne _ s fun q hq c' hc' => ?_]
      have := List.mem_range.1 hq
      omega
    · rw [memRead_noisePixel_of_ne (fun c' hc' => by omega), ih hlt]

theorem noisedSample_toNat (s : State) (p : Nat) (x : Byte) : ((noisedSample s p x).toNat : Int) =
    if Selected s (drawsBefore s p) then min 255 (max 0 ((x.toNat : Int) + signAt s (drawsBefore s p + 1)))
    else (x.toNat : Int) := by
  rw [noisedSample, ← clampAdd_toNat]
  split <;> rfl

/-! ### The command -/

theorem noisePixel_accept (s : State) (p : Nat) : noisePixel s.accept p = (noisePixel s p).accept := by
  rw [noisePixel, noisePixel, apply_ite State.accept]
  rfl

theorem noised_accept (s : State) (n : Nat) : noised s.accept n = (noised s n).accept := by
  induction n with
  | zero => rfl
  | succ n ih => rw [noised_succ, noised_succ, ih, noisePixel_accept]

theorem exec_noise_refused {s : State} {e : CmdError} (h : firstFailing (imageTests s) = some e) :
    exec .noise s = .next (s.reporting (some e)) :=
  runCommand_checked_of_some (tests := imageTests) h _

theorem exec_noise_of_hasImage {s : State} (h : s.HasImage) : exec .noise s =
    .next (((s.afterDraws (drawsBefore s (area s))).setPix (noised s (area s)).pix).reporting none) := by
  rw [← noised_eq, ← complete_accept, ← noised_accept]
  exact runCommand_checked_of_none (tests := imageTests) (s := s) (imageTests_pass h) _

/-- Settles O59: the loop's state is known by the draws taken, and each sample is changed in its own pixel's turn. -/
theorem noiseNudgesTheSelectedPixels : Obligations.NoiseNudgesTheSelectedPixels := by
  intro s
  refine ⟨fun hnone => exec_noise_refused (imageTests_noImage hnone),
    fun hpos hlarge => exec_noise_refused (imageTests_tooLarge hpos hlarge), fun himg => ?_⟩
  have hexec := exec_noise_of_hasImage himg
  refine ⟨_, hexec, fun p hp c hc => ?_, fun a => alphaAndBeyondAreNeverWritten _ _ _ a hexec, rfl, rfl, rfl, rfl⟩
  change ((memRead (noised s (area s)).pix (4 * p + c)).toNat : Int) = _
  rw [memRead_noised hp hc]
  exact noisedSample_toNat s p _

/-! ### `NOP` and `SRST` (R211, R212) -/

/-- Settles O27: the rule of `NOP` completes on the accepted state. -/
theorem nopOnlyReports : Obligations.NopOnlyReports := fun s => congrArg Host.Outcome.next (complete_accept s)

/-- Every register but `ID` is 0 after a reset of the registers. -/
theorem regReadValue_resetRegisters (s : State) {i : Nat} (hi : i ≠ 0) : regReadValue s.resetRegisters i = 0#32 :=
  match i with
  | 0 => absurd rfl hi
  | 2 => (by decide : statusWord State.reset.status = 0#32)
  | 3 => (by decide : ctrlWord State.reset.ctrl = 0#32)
  | 1 | 4 | 5 | 6 | 7 | 8 | 9 | 10 | 11 | 12 | 13 | 14 | 15 | 16 | 17 | _ + 18 => rfl

/-- Settles O28: the command is the reset of the registers. -/
theorem srstResetsRegistersOnly : Obligations.SrstResetsRegistersOnly := fun s =>
  ⟨s.accept.resetRegisters, rfl, rfl, fun _ => regReadValue_resetRegisters s.accept, rfl, rfl, rfl, rfl, rfl, rfl, rfl,
    rfl, rfl, rfl, rfl, rfl, rfl, rfl⟩

end Sys2Proof.Machine

/-! ## The reports: how a command ends, and what an error leaves behind (60_exceptions.md R220 to R234)

Every command but `SRST` ends in one of four ways (`Ends`): it completes, one of its tests fails before the first write,
a decode fails past its checks, or `GENPOS` finds its sequence short. The statements over all commands are read off
these four. -/

namespace Sys2Proof.Machine

open Sys2Proof.Claims

/-! ### The errors that tests and decoders can raise -/

theorem mem_errors_of_firstFailing {tests : Tests} {e : CmdError} (h : firstFailing tests = some e) :
    e ∈ tests.map Prod.snd := by
  induction tests with
  | nil => cases h
  | cons t rest ih =>
    obtain ⟨fails, e'⟩ := t
    cases fails with
    | true =>
      cases h
      exact List.mem_cons_self
    | false => exact List.mem_cons_of_mem _ (ih h)

/-- The errors of `Unframe` (40_framer.md R102). -/
theorem mem_errors_of_unframe {get : Nat → Bool} {avail : Nat} {e : CmdError} (h : unframe get avail = .error e) :
    e ∈ [CmdError.prefixExhausted, .lengthZero, .lengthOverMax, .payloadExhausted] := by
  unfold unframe at h
  split at h
  next hfail =>
    cases h
    exact mem_errors_of_firstFailing hfail
  next => cases h

/-- Once the tests on the key pass, a key in use has a usable length. -/
theorem keyUsable_of_cipherTests {tests : Tests} {s : State} (h : firstFailing tests = none)
    (hsub : ∀ t ∈ cipherTests s, t ∈ tests) : s.KeyUsable := by
  intro hc
  have hpass : ∀ t ∈ cipherTests s, t.1 = false := fun t ht => firstFailing_eq_none.1 h t (hsub t ht)
  simpa [cipherTests, hc, Config.keyMax, Nat.pos_iff_ne_zero] using hpass

/-- Once `EncChecks` pass the operands are those of a successful encode. -/
theorem encReady_of_encTests {s : State} (h : firstFailing (encTests s) = none) : s.EncReady := by
  have hn : s.payLen.toNat ≠ 0 :=
    not_of_mem_of_firstFailing_eq_none .emptyMessage h (by simp [encTests])
  have hroom : ¬(s.payLen.toNat : Int) > s.cap :=
    not_of_mem_of_firstFailing_eq_none .overCapacity h (by simp [encTests])
  rw [cap_eq_area] at hroom
  exact ⟨⟨pixels_pos_of_encTests h, fits_of_imageTests h fun test hmem => by simp [encTests, hmem]⟩,
    Nat.pos_of_ne_zero hn, keyUsable_of_cipherTests h fun test hmem => by simp [encTests, hmem],
    Int.not_lt.1 hroom, payLen_le_of_encTests h⟩

/-! ### How a command ends -/

/-- `u` is `s`, or `s` with a sequence stored by a command that keeps it when it then fails (41_posgen.md R131,
42_codecs.md R157, R159). -/
def MayHaveStored (i : Instr) (s u : State) : Prop :=
  u = s ∨ i ∈ [Instr.genpos, .decRandom, .decAuto] ∧ ∃ P, u = s.storePositions P

theorem MayHaveStored.status {i : Instr} {s u : State} (h : MayHaveStored i s u) : u.status = s.status := by
  obtain rfl | ⟨-, P, rfl⟩ := h <;> rfl

/-- How the rule of a command other than `SRST` ends when it starts on `s`. -/
inductive Ends (i : Instr) (s : State) : Ending → Prop
  /-- It completes; the verdict in `PLAUS` is only `PLAUS`'s to write, and `SCHEME_USED` only a decode's. -/
  | completed {t : State} (herror : t.status.error = s.status.error)
      (hplaus : i ≠ .plaus → t.status.plaus = s.status.plaus)
      (hscheme : i ∉ decCommands → t.status.schemeUsed = s.status.schemeUsed) : Ends i s (.completed t)
  /-- One of its tests fails, before the first write (R223). -/
  | refused {e : CmdError} (hrow : codes e ∈ errorTable i) (hkind : i ∈ decCommands → e.kind = .invalidInput) :
      Ends i s (.raised e s)
  /-- A decode fails past its checks. -/
  | decodeFailed {e : CmdError} {u : State} (hi : i ∈ decCommands) (hrow : codes e ∈ errorTable i)
      (hkind : e.kind ≠ .invalidInput) (hu : MayHaveStored i s u) : Ends i s (.raised e (u.setPayLen 0))
  /-- `GENPOS` stores a sequence shorter than asked for. -/
  | shortSequence (hi : i = .genpos) (P : List Nat) : Ends i s (.raised .positionsExhausted (s.storePositions P))

namespace Ends

variable {i : Instr} {s t u : State}

theorem of_status (h : t.status = s.status) : Ends i s (.completed t) :=
  .completed (by rw [h]) (fun _ => by rw [h]) fun _ => by rw [h]

/-- A checked rule whose tests can raise the errors `es` only, all in the command's row. -/
theorem checked {tests : Tests} {rule : State → Ending} {es : List CmdError} (htests : tests.map Prod.snd = es)
    (hes : ∀ e ∈ es, codes e ∈ errorTable i ∧ (i ∈ decCommands → e.kind = .invalidInput))
    (hpass : firstFailing tests = none → Ends i s (rule s)) : Ends i s (checked tests s rule) := by
  obtain ⟨e, hsome, h⟩ | ⟨hnone, h⟩ := checked_cases tests s rule <;> rw [h]
  · obtain ⟨hrow, hkind⟩ := hes e (htests ▸ mem_errors_of_firstFailing hsome)
    exact .refused hrow hkind
  · exact hpass hnone

/-! ### The encode commands -/

/-- `EncChecks` leaves operands on which no encoder raises an error (42_codecs.md R161). -/
theorem checked_encTests {rule : State → Ending} (hi : i ∈ encCommands)
    (hrule : s.EncReady → ∃ t, rule s = .completed t ∧ t.status = s.status) :
    Ends i s (Machine.checked (encTests s) s rule) := by
  refine checked (es := [.noImage, .imageTooLarge, .emptyMessage, .missingPassword, .keyTooLong, .overCapacity,
    .overPayloadMax]) rfl ?_ fun hpass => ?_
  · simp only [encCommands, List.mem_cons, List.not_mem_nil, or_false] at hi
    obtain rfl | rfl | rfl := hi <;> decide
  · obtain ⟨t, ht, hstatus⟩ := hrule (encReady_of_encTests hpass)
    exact ht ▸ of_status hstatus

/-! ### The decode commands -/

theorem checked_decTests {rule : State → Ending} (hi : i ∈ decCommands) (hrule : Ends i s (rule s)) :
    Ends i s (Machine.checked (decTests s) s rule) := by
  refine checked (es := [.noImage, .imageTooLarge, .missingPassword, .keyTooLong]) rfl ?_ fun _ => hrule
  simp only [decCommands, List.mem_cons, List.not_mem_nil, or_false] at hi
  obtain rfl | rfl | rfl | rfl := hi <;> decide

theorem delivered (c : Codec) (B : List Byte) (hi : i ∈ decCommands) (hu : MayHaveStored i s u) :
    Ends i s (.completed (u.deliver c B)) :=
  .completed (congrArg Status.error hu.status :) (fun _ => (congrArg Status.plaus hu.status :)) fun h => absurd hi h

/-- The rule of a decode command of an explicit scheme. -/
theorem finishDecode {get : Nat → Bool} {avail : Nat} (c : Codec) (hi : i ∈ schemeDecCommands)
    (hu : MayHaveStored i s u) : Ends i s (finishDecode c u (unframe get avail)) := by
  have hdec : i ∈ decCommands := List.mem_of_mem_dropLast (l := decCommands) hi
  have hrow : ∀ e ∈ [CmdError.prefixExhausted, .lengthZero, .lengthOverMax, .payloadExhausted],
      codes e ∈ errorTable i ∧ e.kind ≠ .invalidInput := by
    simp only [schemeDecCommands, List.mem_cons, List.not_mem_nil, or_false] at hi
    obtain rfl | rfl | rfl := hi <;> decide
  cases h : unframe get avail with
  | ok B => exact delivered c B hdec hu
  | error e =>
    obtain ⟨hcodes, hkind⟩ := hrow e (mem_errors_of_unframe h)
    exact .decodeFailed hdec hcodes hkind hu

theorem decodeAuto (s : State) : Ends .decAuto s (decodeAuto s) := by
  have hstored : MayHaveStored .decAuto s (s.storePositions s.decPositions) := .inr ⟨by decide, _, rfl⟩
  unfold Machine.decodeAuto
  split
  · exact delivered .lsb _ (by decide) (.inl rfl)
  · split
    · exact delivered .lsb2 _ (by decide) (.inl rfl)
    · split
      · exact delivered .random _ (by decide) hstored
      · exact .decodeFailed (by decide) (by decide) (by decide) hstored

end Ends

theorem noised_status (s : State) (n : Nat) : (noised s n).status = s.status := by
  rw [noised_eq]
  rfl

/-- A command other than `SRST` is accepted and ends in one of the four ways. -/
theorem exec_ends {i : Instr} (s : State) (hi : i ≠ .srst) :
    ∃ r : Ending, exec i s = .next r.state ∧ Ends i s.accept r := by
  cases i
  case srst => exact absurd rfl hi
  case nop | cap => exact ⟨.completed _, rfl, .of_status rfl⟩
  case plaus => exact ⟨.completed _, rfl, .completed rfl (absurd rfl) fun _ => rfl⟩
  case encLsb =>
    exact ⟨_, rfl, .checked_encTests (by decide) fun h => ⟨_, encodeSeq1_of_fits (frameLen_le_rgbCount h), rfl⟩⟩
  case encLsb2 =>
    exact ⟨_, rfl, .checked_encTests (by decide) fun h =>
      ⟨_, encodeSeq2_of_fits ((Nat.div_le_self _ 2).trans (frameLen_le_rgbCount h)), rfl⟩⟩
  case encRandom =>
    exact ⟨_, rfl, .checked_encTests (by decide) fun h =>
      ⟨_, encodeRand_of_fits (state_encPositions h.1.1) (length_encPositions h).ge, rfl⟩⟩
  case decLsb | decLsb2 => exact ⟨_, rfl, .checked_decTests (by decide) (.finishDecode _ (by decide) (.inl rfl))⟩
  case decRandom =>
    exact ⟨_, rfl, .checked_decTests (by decide) (.finishDecode _ (by decide) (.inr ⟨by decide, _, rfl⟩))⟩
  case decAuto => exact ⟨_, rfl, .checked_decTests (by decide) (.decodeAuto _)⟩
  case analyze =>
    exact ⟨_, rfl, .checked (es := [.noImage, .imageTooLarge]) rfl (by decide) fun _ => .of_status rfl⟩
  case genpos =>
    refine ⟨_, rfl, .checked (es := [.noImage, .imageTooLarge, .countTooLarge]) rfl (by decide) fun _ => ?_⟩
    dsimp only
    split
    · exact .shortSequence rfl _
    · exact .of_status rfl
  case xmask =>
    exact ⟨_, rfl, .checked (es := [.missingPassword, .keyTooLong, .lengthTooLarge]) rfl (by decide)
      fun _ => .of_status rfl⟩
  case noise =>
    exact ⟨_, rfl, .checked (es := [.noImage, .imageTooLarge]) rfl (by decide) fun _ =>
      .of_status (noised_status s.accept s.accept.pixels)⟩

/-- An error was raised: the command did not complete. -/
theorem exists_raised_of_error {i : Instr} {s t : State} {e : CmdError} (h : exec i s = .next t)
    (he : t.status.error = some e) (hi : i ≠ .srst) :
    ∃ u : State, t = u.raise e ∧ Ends i s.accept (.raised e u) := by
  obtain ⟨r, hr, hends⟩ := exec_ends s hi
  cases hr.symm.trans h
  cases r with
  | completed u => cases hends with
    | completed herror => exact nomatch herror.symm.trans he
  | raised e' u =>
    cases he
    exact ⟨u, rfl, hends⟩

/-! ### The statements over all commands -/

/-- Settles O16: both kinds of ending set `DONE`, and each of the four ways keeps the other fields. -/
theorem commandsEndWithTheirReport : Obligations.CommandsEndWithTheirReport := by
  intro i s
  by_cases hi : i = .srst
  · subst hi
    exact ⟨_, rfl, fun _ => (by decide : statusWord State.reset.status = 0#32), fun h => absurd rfl h⟩
  obtain ⟨r, hr, hends⟩ := exec_ends s hi
  refine ⟨_, hr, fun h => absurd h hi, fun _ => ?_⟩
  cases hends with
  | completed herror hplaus hscheme =>
    refine ⟨rfl, rfl, hplaus, fun h => hscheme (h.resolve_left ?_)⟩
    simpa using herror
  | refused => exact ⟨rfl, rfl, fun _ => rfl, fun _ => rfl⟩
  | decodeFailed _ _ _ hu =>
    exact ⟨rfl, rfl, fun _ => (congrArg Status.plaus hu.status :), fun _ => (congrArg Status.schemeUsed hu.status :)⟩
  | shortSequence => exact ⟨rfl, rfl, fun _ => rfl, fun _ => rfl⟩

/-- Settles O17: each way of ending by an error names a pair of the command's row. -/
theorem errorsOnlyFromTheTable : Obligations.ErrorsOnlyFromTheTable := by
  intro i s t e h he hi
  obtain ⟨u, -, hends⟩ := exists_raised_of_error h he hi
  cases hends with
  | refused hrow => exact hrow
  | decodeFailed _ hrow => exact hrow
  | shortSequence hgenpos => exact hgenpos ▸ (by decide)

/-- Settles O19: a test fails before any write; past them only a decode's length and a stored sequence change. -/
theorem failureLeavesTheDataAlone : Obligations.FailureLeavesTheDataAlone := by
  intro i s t e h he hi
  obtain ⟨u, rfl, hends⟩ := exists_raised_of_error h he hi
  cases hends with
  | refused _ hkind =>
    exact ⟨rfl, fun ⟨hdec, hfail⟩ => absurd (hkind hdec) hfail, fun _ => rfl, fun _ => ⟨rfl, rfl⟩⟩
  | decodeFailed hdec _ hkind hu =>
    have hfailed : ¬(i ∉ decCommands ∨ e.kind = .invalidInput) := not_or.2 ⟨not_not.2 hdec, hkind⟩
    obtain rfl | ⟨hgen, P, rfl⟩ := hu
    · exact ⟨rfl, fun _ => rfl, fun h => absurd h hfailed, fun _ => ⟨rfl, rfl⟩⟩
    · exact ⟨rfl, fun _ => rfl, fun h => absurd h hfailed, fun h => absurd h (not_or.2 ⟨not_not.2 hgen, hkind⟩)⟩
  | shortSequence hgenpos P =>
    subst hgenpos
    exact ⟨rfl, fun ⟨hdec, _⟩ => absurd hdec (by decide), fun _ => rfl, fun hno => absurd hno (by decide)⟩

/-! ### Steps and the interrupt line -/

theorem exec_idle {i : Instr} {s t : State} (h : exec i s = .next t) : t.status.busy = false := by
  by_cases hi : i = .srst
  · subst hi
    cases h
    rfl
  · obtain ⟨_, ht, -, hreport⟩ := commandsEndWithTheirReport i s
    cases ht.symm.trans h
    exact (hreport hi).1

/-- A host operation that issues no command starts none. -/
theorem hostEffect_idle {s : State} (op : HostOp) (h : s.status.busy = false) :
    (hostEffect s op).status.busy = false := by
  unfold hostEffect
  rw [h]
  cases op with
  | regRead i | byteRead sp i | wordRead sp i | wordWrite sp i v => exact h
  | regWrite i v =>
    change (regWriteEffect s i v).status.busy = false
    rw [regWriteEffect_eq]
    dsimp only
    split <;> exact h
  | byteWrite sp i v =>
    change (byteWriteEffect s sp i v).status.busy = false
    rwa [byteWriteEffect_frame]
  | hardReset u => rfl

/-- Settles O7: by the kinds of step, none of which leaves a command running. -/
theorem everyStepAnswersNext : Obligations.EveryStepAnswersNext := by
  intro s
  obtain ⟨-, h⟩ | ⟨_, rest, i, -, -, -, h⟩ | ⟨_, _, _, -, -, -, h⟩ | ⟨op, rest, -, -, h⟩ := step_cases s
  · exact ⟨_, h, id⟩
  · obtain ⟨t, ht⟩ := exec_next i { s with host := rest }
    exact ⟨t, h.trans ht, fun _ => exec_idle ht⟩
  · exact ⟨_, h, fun _ => rfl⟩
  · exact ⟨_, h, hostEffect_idle (s := { s with host := rest }) op⟩

theorem irq_eq_true_iff (s : State) : s.irq = true ↔ s.ctrl.ie = true ∧ s.status.done = true :=
  Bool.and_eq_true_iff

theorem irq_eq_false_of_done {s : State} (h : s.status.done = false) : s.irq = false := by simp [State.irq, h]

theorem irq_eq_false_of_ie {s : State} (h : s.ctrl.ie = false) : s.irq = false := by simp [State.irq, h]

/-- A command word issued with `IE` = 1, legal or not, leaves the line high, unless it is `SRST`'s. -/
theorem irq_of_issue {w : Word} {s : State} (hie : s.ctrl.ie = true) (hw : decode w ≠ .ok .srst) :
    ∃ t, issue w s = .next t ∧ t.irq = true := by
  cases hd : decode w with
  | error r => exact ⟨_, issue_error hd s, (irq_eq_true_iff _).2 ⟨hie, rfl⟩⟩
  | ok i =>
    have hi : i ≠ .srst := fun h => hw (hd.trans (congrArg _ h))
    obtain ⟨t, ht, -, hreport⟩ := commandsEndWithTheirReport i s
    obtain ⟨-, hdone, -⟩ := hreport hi
    obtain ⟨-, -, -, -, -, hkept, -⟩ := commandsKeepToTheirWriteSets i s t ht
    obtain ⟨hctrl, -⟩ := hkept hi
    exact ⟨t, (issue_ok hd s).trans ht, (irq_eq_true_iff t).2 ⟨hctrl ▸ hie, hdone⟩⟩

/-- Settles O13: a completion or a rejection sets `DONE` and keeps `IE`; each of the two writes clears one of them. -/
theorem interruptLineFollowsDone : Obligations.InterruptLineFollowsDone := by
  refine ⟨irq_eq_true_iff, fun s v rest hidle => ⟨fun hh hie hw => ?_, fun hh hv => ?_, fun hh hv => ?_⟩⟩
  · rw [step_issue hh hidle]
    exact irq_of_issue (s := { s with host := rest }) hie hw
  · refine ⟨_, step_regWrite hh hidle (by decide), irq_eq_false_of_done ?_⟩
    rw [regWriteEffect_eq]
    exact congrArg Status.done (if_pos ⟨rfl, hv⟩)
  · exact ⟨_, step_regWrite hh hidle (by decide), irq_eq_false_of_ie hv⟩

/-! ### Every pair of the table is reported -/

/-- A state with `PIX_BYTES` = 160000 whose image has `W` by `H` pixels, the listed samples `pix` and no others. -/
def imageState (W H : BitVec 16) (pix : Memory 8) : State :=
  { State.reset with width := W, height := H, pix := pix, pixSize := 39999 }

/-- A state with a 10 by 10 image, of capacity 5, a payload of `payLen` characters and a key of `keyLen` bytes in use. -/
def keyedState (payLen keyLen : BitVec 16) : State :=
  { imageState 10 10 [] with ctrl := { ie := false, cipherEn := true }, payLen := payLen, keyLen := keyLen }

/-- Images of no pixel and of too many. -/
def badImages : List State := [imageState 0 0 [], imageState 201 200 []]

/-- For each command and each pair of its row, in the row's order, a state from which the command reports it. -/
def erringStates : Instr → List State
  | .nop | .cap | .plaus | .srst => []
  | .encLsb | .encLsb2 | .encRandom => badImages ++
    [imageState 10 10 [], keyedState 1 0, keyedState 1 257, { imageState 10 10 [] with payLen := 6 },
      { imageState 200 200 [] with payLen := 10001 }]
  /- Past the checks: too few samples for a length; the length 0; a length of ones; and a length beyond what the image
  holds, read as 1 (`lsb`), 8192 (`lsb2`) or 2 (`random`). -/
  | .decLsb | .decLsb2 | .decRandom => badImages ++
    [keyedState 0 0, keyedState 0 257, imageState 1 1 [], imageState 4 3 [],
      imageState 4 3 ((List.range 48).map fun a => (a, 255)), imageState 4 3 [(12, 2), (41, 1)]]
  | .decAuto => badImages ++ [keyedState 0 0, keyedState 0 257, imageState 4 3 []]
  | .analyze | .noise => badImages
  | .genpos => badImages ++ [{ imageState 2 2 [] with posCnt := 80033 }, { imageState 2 2 [] with posCnt := 13 }]
  | .xmask => [State.reset, { State.reset with keyLen := 257 }, { State.reset with keyLen := 1, payLen := 10001 }]

/-- The pair that a command reports from a state. -/
def reportedCodes (i : Instr) (s : State) : Option (Nat × Nat) :=
  match exec i s with
  | .next t => t.status.error.map codes
  | .fault _ | .refused _ => none

theorem reportedCodes_of_exec {i : Instr} {s t : State} (h : exec i s = .next t) :
    reportedCodes i s = t.status.error.map codes := by
  unfold reportedCodes
  rw [h]

theorem map_reportedCodes_erringStates (i : Instr) :
    (erringStates i).map (reportedCodes i) = (errorTable i).map some := by
  cases i <;> decide +kernel

/-- Settles O18: running the command from its list of states reports its row. -/
theorem everyTableErrorOccurs : Obligations.EveryTableErrorOccurs := by
  intro i p hp
  have hmem : some p ∈ (erringStates i).map (reportedCodes i) :=
    map_reportedCodes_erringStates i ▸ List.mem_map_of_mem hp
  obtain ⟨s, -, hs⟩ := List.mem_map.1 hmem
  obtain ⟨t, ht⟩ := exec_next i s
  rw [reportedCodes_of_exec ht] at hs
  obtain ⟨e, he, hcodes⟩ := Option.map_eq_some_iff.1 hs
  exact ⟨s, t, e, ht, he, hcodes⟩

end Sys2Proof.Machine

/-! ## Reset, and the message that does not come back (70_reset_and_hazards.md R250, R251, R256)

The reset input acts alike whether or not a command runs. What the memories then hold is the event's own list of
elements, and listing each element of a space once gives any contents. A randomized frame of more than 1000 bits is
stored at more positions than a decode regenerates. -/

namespace Sys2Proof.Machine

open Sys2Proof.Claims

/-! ### Waiting and the reset input -/

/-- Settles O6: the first kind of step. -/
theorem idleBlockWaits : Obligations.IdleBlockWaits := fun _ => step_nil

/-- The reset input takes effect at any time, a running command being abandoned. -/
theorem step_hardReset {s : State} {u : PowerUp} {rest : List HostOp} (hh : s.host = .hardReset u :: rest) :
    step s = .next (State.hardReset u { s with host := rest }) := by
  cases hb : s.status.busy with
  | true => exact step_busy hh hb
  | false => exact step_idle hh hb rfl

section HardReset

variable (s : State) (u : PowerUp)

@[simp] theorem State.hardReset_pix : (s.hardReset u).pix = memOfCells s.pixBytes u.pix := rfl
@[simp] theorem State.hardReset_pay : (s.hardReset u).pay = memOfCells 10000 u.pay := rfl
@[simp] theorem State.hardReset_key : (s.hardReset u).key = memOfCells 256 u.key := rfl
@[simp] theorem State.hardReset_pos : (s.hardReset u).pos = memOfCells 80032 u.pos := rfl
@[simp] theorem State.hardReset_hist : (s.hardReset u).hist = memOfCells 256 u.hist := rfl

end HardReset

/-- The contents the event brings are in no register. -/
theorem regReadValue_hardReset (s : State) (u : PowerUp) (i : Nat) :
    regReadValue (s.hardReset u) i = regReadValue s.resetRegisters i := rfl

/-- Settles O14: both states have the registers of a reset. -/
theorem resetZeroesTheRegisters : Obligations.ResetZeroesTheRegisters :=
  ⟨fun _ _ _ hh => ⟨_, step_hardReset hh, rfl,
      fun _ hi => (regReadValue_hardReset _ _ _).trans (regReadValue_resetRegisters _ hi), rfl, rfl⟩,
    rfl, fun _ => regReadValue_resetRegisters State.reset, rfl, rfl⟩

/-- Settles O26: no memory lists an element, and every register is 0. -/
theorem resetMeetsTheInvariant : Obligations.ResetMeetsTheInvariant := by
  unfold Obligations.ResetMeetsTheInvariant
  constructor
  case pix | pay | key | pos | hist => exact wf_nil _
  case idle => rfl
  case report => nofun
  case capacity => decide
  case ones | histMax => exact le_rfl
  case entropy | lsbBias | chiSq | prob => exact Nat.zero_le _

/-! ### The contents a reset leaves -/

/-- The elements of a space of `size` elements with the contents `f`, each listed once. -/
def cellsOf {w : Nat} (size : Nat) (f : Nat → BitVec w) : List (Nat × BitVec w) :=
  (List.range size).map fun i => (i, f i)

/-- A list with every index inside the space is stored element by element. -/
theorem memOfCells_cellsOf {w : Nat} (size : Nat) (f : Nat → BitVec w) :
    memOfCells size (cellsOf size f) = (List.range size).foldl (fun m i => memWrite m i (f i)) [] := by
  rw [memOfCells, cellsOf, List.foldl_map]
  exact List.foldl_ext _ _ _ fun _ i hi => if_pos (List.mem_range.1 hi)

theorem memRead_memOfCells_cellsOf {w size i : Nat} (f : Nat → BitVec w) (hi : i < size) :
    memRead (memOfCells size (cellsOf size f)) i = f i := by
  rw [memOfCells_cellsOf]
  exact (memRead_loop id (fun j _ => f j) [] size fun _ _ _ _ => id).1 i hi

/-- Settles O15: the event lists every element of the five spaces. -/
theorem resetMayLeaveAnyContents : Obligations.ResetMayLeaveAnyContents := by
  intro s rest fpix fpay fkey fpos fhist
  refine ⟨⟨cellsOf s.pixBytes fpix, cellsOf 10000 fpay, cellsOf 256 fkey, cellsOf 80032 fpos, cellsOf 256 fhist⟩, _,
    step_hardReset rfl, fun i hi => ?_, fun i hi => ?_, fun i hi => ?_, fun i hi => ?_, fun i hi => ?_,
    rfl, rfl, rfl, rfl⟩
  · exact memRead_memOfCells_cellsOf fpix hi
  · rw [State.hardReset_pay, memRead_memOfCells_cellsOf fpay hi]
  · rw [State.hardReset_key, memRead_memOfCells_cellsOf fkey hi]
  · rw [State.hardReset_pos, memRead_memOfCells_cellsOf fpos hi]
  · rw [State.hardReset_hist, memRead_memOfCells_cellsOf fhist hi]

/-! ### A long randomized message -/

/-- A decoder that finds the framed length field of `s` reads its length (40_framer.md R102). -/
theorem decodedPrefix_of_frame {d : Instr} {s t : State} (hbits : ∀ j < 32, schemeBits d t j = s.frame j) :
    decodedPrefix d t = s.payLen.toNat := by
  have hlen : s.payLen.toNat < 4294967296 := by omega
  calc decodedPrefix d t = readPrefix (schemeBits d t) := decodedPrefix_eq d t
    _ = readPrefix s.frame := readBits_congr fun j hj => by rw [Nat.zero_add]; exact hbits j hj
    _ = s.payLen.toNat := readPrefix_frameBit hlen _

/-- The 1000 positions of a decode are the first of those of the encode of a long message (41_posgen.md R128). -/
theorem decPositions_eq_take {s t : State} (hsame : SameSetup s t) (hlong : 122 ≤ s.payLen.toNat) :
    decPositions t = (encPositions s).take 1000 := by
  rw [encPositions, decPositions, hsame.width, hsame.height]
  exact positionsArePrefixStable.1 _ _ _ _ (by omega)

section LongMessage

variable {s t : State} (hs : s.EncReady) (hsame : SameSetup s t) (hlong : 122 ≤ s.payLen.toNat)
include hs hsame hlong

theorem available_decRandom_of_long : available .decRandom t = 1000 := by
  change (decPositions t).length = 1000
  rw [decPositions_eq_take hsame hlong, List.length_take, length_encPositions hs]
  omega

/-- Where an encode of `s` has stored its frame, the decode finds the first 1000 framed bits. -/
theorem schemeBits_decRandom_of_stored {m : Memory 8} {j : Nat}
    (hpix : t.pix = embedBits (fun j => (encPositions s).getD j 0) s.frame (frameLen s.payLen.toNat) m)
    (hj : j < 1000) :
    schemeBits .decRandom t j = s.frame j := by
  have hsamePos : (decPositions t).getD j 0 = (encPositions s).getD j 0 := by
    rw [decPositions_eq_take hsame hlong]
    simp [hj]
  change randBit t.pix (decPositions t) j = _
  rw [hpix, frameLen_eq]
  exact randBit_embedBits _ _ (by omega) (getD_encPositions_injective hs) hsamePos

end LongMessage

/-- Settles O53: the decode reads the whole length field at its 1000 positions, and from 122 characters up the length
asks for more bits than these hold. -/
theorem longRandomMessageCannotBeDecoded : Obligations.LongRandomMessageCannotBeDecoded := by
  intro s hs hlong
  obtain ⟨t, ht, herror, hpay, hpix, hsame⟩ : ∃ t, exec .encRandom s = .next t ∧ t.status.error = none ∧
      t.pay = s.pay ∧ t.pix = embedBits (fun j => (encPositions s).getD j 0) s.frame (frameLen s.payLen.toNat) s.pix ∧
      SameSetup s t :=
    ⟨_, exec_encRandom hs, rfl, rfl, rfl, ⟨rfl, rfl, rfl, rfl, rfl, fun _ _ => rfl⟩⟩
  have havail : available .decRandom t = 1000 := available_decRandom_of_long hs hsame hlong
  have hprefix : decodedPrefix .decRandom t = s.payLen.toNat :=
    decodedPrefix_of_frame fun j hj => schemeBits_decRandom_of_stored hs hsame hlong hpix (by omega)
  have hmax : s.payLen.toNat ≤ 10000 := by
    obtain ⟨-, -, -, -, hmax⟩ := hs
    exact hmax
  obtain ⟨u, hu, hframe, -⟩ := decodeFailsInOrder .decRandom t (by decide) (hsame.decReady hs) .payloadExhausted
    (.inr (.inr (.inr ⟨by omega, by omega, by omega, by omega, rfl⟩)))
  exact ⟨t, u, ht, herror, hu, congrArg (·.status.error) hframe, congrArg State.payLen hframe,
    fun k => congrArg (memRead · k) ((congrArg State.pay hframe).trans hpay)⟩

end Sys2Proof.Machine
